-- ==== Sys2Proof/Word.lean ====
section
/-! DEFINITION. The widths of the block's values (spec/00_scope.md R9: every value is an unsigned integer, a byte, a
16-bit geometry field, or a 32-bit length or CRC). -/

namespace Sys2Proof

/-- A byte of a host, panel or memory transfer (R9, R68). -/
abbrev Byte := BitVec 8

/-- A 16-bit geometry field (R9, R85). -/
abbrev Half := BitVec 16

/-- A 32-bit length or CRC (R9, R82). -/
abbrev Word := BitVec 32

end Sys2Proof
end

