-- ==== Sys2Proof/Config.lean ====
section
/-! DEFINITION. The block's build-time parameters (spec/00_scope.md R6, R7, R8). They are an argument of the model
(R7: "An OPEN parameter is an argument of the model"), so State carries one `Config` and no step changes it (R8).
`Config.std` is configuration D of spec/95_test_vectors.md section 1, the one State.reset holds. -/

namespace Sys2Proof

/-- The two controllers of the panel (R148, R247). -/
inductive Ctl where
  | master | slave
deriving DecidableEq, Repr

/-- The two planes of a controller (R154). -/
inductive Plane where
  | new | old
deriving DecidableEq, Repr

/-- `ORDER`: the plane stream order (R7, R153). -/
inductive Order where
  | colMajor | rowMajor
deriving DecidableEq, Repr

/-- `TRIG_MODE`: one trigger a refresh, or one a controller (R7, R175). -/
inductive TrigMode where
  | once | perCtl
deriving DecidableEq, Repr

/-- The form of a trigger sequence (R90, I7): `OP_UPDATE` with a data byte and then `OP_ACTIVATE`, or one command byte
for each waveform. -/
inductive TrigForm where
  | split
  | single (full part : Byte)
deriving DecidableEq, Repr

/-- The panel commands by name (R88, R89). -/
inductive Opcode where
  | swreset
  | entry (c : Ctl)
  | colwin (c : Ctl)
  | rowwin (c : Ctl)
  | colcur (c : Ctl)
  | rowcur (c : Ctl)
  | plane (c : Ctl) (p : Plane)
  | border
  | tempsrc
  | update
  | activate
deriving DecidableEq, Repr

/-- The `OP_*` parameters (R7, R88). -/
structure Opcodes where
  swreset : Byte
  entryM : Byte
  entryS : Byte
  colwinM : Byte
  colwinS : Byte
  rowwinM : Byte
  rowwinS : Byte
  colcurM : Byte
  colcurS : Byte
  rowcurM : Byte
  rowcurS : Byte
  newM : Byte
  newS : Byte
  oldM : Byte
  oldS : Byte
  border : Byte
  tempsrc : Byte
  update : Byte
  activate : Byte
deriving DecidableEq, Repr

/-- The byte sent for a command. -/
def Opcodes.byte (t : Opcodes) : Opcode → Byte
  | .swreset => t.swreset
  | .entry .master => t.entryM
  | .entry .slave => t.entryS
  | .colwin .master => t.colwinM
  | .colwin .slave => t.colwinS
  | .rowwin .master => t.rowwinM
  | .rowwin .slave => t.rowwinS
  | .colcur .master => t.colcurM
  | .colcur .slave => t.colcurS
  | .rowcur .master => t.rowcurM
  | .rowcur .slave => t.rowcurS
  | .plane .master .new => t.newM
  | .plane .slave .new => t.newS
  | .plane .master .old => t.oldM
  | .plane .slave .old => t.oldS
  | .border => t.border
  | .tempsrc => t.tempsrc
  | .update => t.update
  | .activate => t.activate

/-- The opcodes of the master set that have a slave form (R89). -/
def Opcodes.masterSet (t : Opcodes) : List Byte :=
  [t.entryM, t.colwinM, t.rowwinM, t.colcurM, t.rowcurM, t.newM, t.oldM]

/-- The opcodes of the slave set (R89). -/
def Opcodes.slaveSet (t : Opcodes) : List Byte :=
  [t.entryS, t.colwinS, t.rowwinS, t.colcurS, t.rowcurS, t.newS, t.oldS]

/-- R89: no `_M` opcode equals an `_S` opcode. -/
def Opcodes.disjoint (t : Opcodes) : Bool :=
  t.masterSet.all fun b => !t.slaveSet.contains b

/-- Every command name once. -/
def Opcode.all : List Opcode :=
  [.swreset, .entry .master, .entry .slave, .colwin .master, .colwin .slave, .rowwin .master, .rowwin .slave,
    .colcur .master, .colcur .slave, .rowcur .master, .rowcur .slave, .plane .master .new, .plane .slave .new,
    .plane .master .old, .plane .slave .old, .border, .tempsrc, .update, .activate]

/-- No two commands share a byte. The spec asks this of the default opcodes of I9, not of every `OPEN` choice; a reader
of command bytes needs it, the block (which only writes them) does not. -/
def Opcodes.distinct (t : Opcodes) : Bool :=
  decide ((Opcode.all.map t.byte).Nodup)

/-- One of the four `ENC_*` functions of R152, from the values of a window or cursor command to its data bytes. R152 lets a
deployment replace them, and I3 makes them a parameter: `std` is the function R152 writes out, `table` any other, by its
value at each operand (log 13). -/
inductive Enc (α : Type) where
  | std
  | table (rows : List (α × List Byte))
deriving DecidableEq, Repr

/-- The function has a value at an operand: R152's at those that `fits` says it sends whole, a table's at those it lists. -/
def Enc.lists {α : Type} [DecidableEq α] (fits : α → Bool) : Enc α → α → Bool
  | .std, a => fits a
  | .table rows, a => rows.any fun row => decide (row.1 = a)

/-- `ENC_COLWIN`, `ENC_ROWWIN`, `ENC_COLCUR` and `ENC_ROWCUR` (R152, I3): columns are byte-column addresses, rows are row
indices of 16 bits (R6). -/
structure Encodings where
  colwin : Enc (Nat × Nat)
  rowwin : Enc (Half × Half)
  colcur : Enc Nat
  rowcur : Enc Half
deriving DecidableEq, Repr

/-- `ENC_COLWIN` sends a window: R152's sends 8 bits of each column, so that columns must fit them (R6). -/
def Encodings.hasColwin (t : Encodings) (start stop : Nat) : Bool :=
  t.colwin.lists (fun a => decide (a.1 < 256) && decide (a.2 < 256)) (start, stop)

/-- `ENC_COLCUR` sends a column: R152's sends 8 bits of it (R6). -/
def Encodings.hasColcur (t : Encodings) (col : Nat) : Bool :=
  t.colcur.lists (fun a => decide (a < 256)) col

/-- `ENC_ROWWIN` sends a window: R152's sends all of it. -/
def Encodings.hasRowwin (t : Encodings) (start stop : Half) : Bool :=
  t.rowwin.lists (fun _ => true) (start, stop)

/-- `ENC_ROWCUR` sends a row: R152's sends all of it. -/
def Encodings.hasRowcur (t : Encodings) (row : Half) : Bool :=
  t.rowcur.lists (fun _ => true) row

/-- The `n * (n + 1) / 2` pairs `(lo, hi)` with `lo ≤ hi < n`. -/
def orderedPairs (n : Nat) : List (Nat × Nat) :=
  (List.range n).flatMap fun hi => (List.range (hi + 1)).map fun lo => (lo, hi)

/-- The four functions have a value at every window and cursor of a panel of `n` byte columns and `h` rows (R151). For R152's
own functions this is R6's `N ≤ 256`. -/
def Encodings.covers (t : Encodings) (n h : Nat) : Bool :=
  (match t.colwin with
    | .std => decide (n ≤ 256)
    | .table _ => (orderedPairs n).all fun p => t.hasColwin p.1 p.2) &&
  (match t.rowwin with
    | .std => true
    | .table _ => (orderedPairs h).all fun p => t.hasRowwin (BitVec.ofNat 16 p.2) (BitVec.ofNat 16 p.1)) &&
  (match t.colcur with
    | .std => decide (n ≤ 256)
    | .table _ => (List.range n).all t.hasColcur) &&
  (match t.rowcur with
    | .std => true
    | .table _ => (List.range h).all fun r => t.hasRowcur (BitVec.ofNat 16 r))

/-- The timing parameters, in one unit of time (R7, R184, R271). No rule's result depends on their values (R184). -/
structure Timing where
  rstPulse : Nat
  busyInit : Nat
  busyFull : Nat
  busyPart : Nat
  poll : Nat
  magic : Nat
  len : Nat
  pay : Nat
  crc : Nat
deriving DecidableEq, Repr

/-- The relations of R271 and R184. -/
def Timing.wf (t : Timing) : Bool :=
  decide (t.busyPart < t.busyFull) && decide (0 < t.poll) && decide (0 < t.magic) && decide (0 < t.len) &&
    decide (0 < t.pay) && decide (0 < t.crc)

/-- All build-time parameters (R6, R7). -/
structure Config where
  /-- `W`, panel width in pixels -/
  w : Nat
  /-- `H`, panel height in rows -/
  h : Nat
  /-- `M`, end (exclusive) of the master's byte columns -/
  m : Nat
  /-- `WHITE` -/
  white : Byte
  /-- `REV_BITS` -/
  revBits : Bool
  /-- `INVERT` -/
  invert : Bool
  /-- `ORDER` -/
  order : Order
  /-- `TRIG_MODE` -/
  trigMode : TrigMode
  /-- the form of `TRIG` (R90) -/
  trigForm : TrigForm
  /-- `COLD_CLEAR` -/
  coldClear : Bool
  /-- `OP_*` -/
  opcodes : Opcodes
  /-- the `ENC_*` functions (R152, I3) -/
  encs : Encodings
  /-- `ENTRY_DATA_M` -/
  entryDataM : Byte
  /-- `ENTRY_DATA_S` -/
  entryDataS : Byte
  /-- `BORDER_DATA` -/
  borderData : Byte
  /-- `TEMP_DATA` -/
  tempData : Byte
  /-- `UPD_FULL` -/
  updFull : Byte
  /-- `UPD_PART` -/
  updPart : Byte
  /-- `ERR_PREFIX`: OPEN, and so is how many bytes it has (R87); with the code it makes an acknowledgement of R122 (log 26) -/
  errPrefix : List Byte
  /-- `ERR_LEN` -/
  errLen : Byte
  /-- `ERR_CRC` -/
  errCrc : Byte
  /-- `T_*` -/
  timing : Timing
deriving DecidableEq, Repr

namespace Config

/-- `BPR = W / 8` (R6). -/
def bpr (c : Config) : Nat := c.w / 8

/-- `N = BPR`, the number of byte columns (R6). -/
def n (c : Config) : Nat := c.bpr

/-- `FB = BPR × H` (R6). -/
def fb (c : Config) : Nat := c.bpr * c.h

/-- `OVL = M − 1`, the overlap byte column (R6, R148). -/
def ovl (c : Config) : Nat := c.m - 1

/-- `SO = N − M`, the slave's fixed addressing origin (R6, D4). -/
def so (c : Config) : Nat := c.n - c.m

/-- `MAXLEN = FB + 9`, the capacity of RXBUF (R6, D5). -/
def maxlen (c : Config) : Nat := c.fb + 9

/-- `ENTRY_DATA_c` (R88, R151). -/
def entryData (c : Config) : Ctl → Byte
  | .master => c.entryDataM
  | .slave => c.entryDataS

/-- The constraints on the error acknowledgements: the codes differ, no acknowledgement begins as `ACK_OK` does (R87), and each
has 2 or 3 bytes (R31, R122), which leaves the prefix 1 or 2 (DEDUCED, log 26). -/
def errWf (c : Config) : Bool :=
  decide (1 ≤ c.errPrefix.length) && decide (c.errPrefix.length ≤ 2) && decide (c.errLen ≠ c.errCrc) &&
    decide ((c.errPrefix ++ [c.errLen]).take 2 ≠ [0x4F#8, 0x4B#8]) &&
    decide ((c.errPrefix ++ [c.errCrc]).take 2 ≠ [0x4F#8, 0x4B#8])

/-- The constraints the spec puts on the parameters: R6 (geometry; `N ≤ 256` for the default encodings of R152), R87 (error
acknowledgements), R89 (opcode sets), R90 (trigger codes), R271 (timing). -/
def wf (c : Config) : Bool :=
  decide (c.w % 8 = 0) && decide (1 ≤ c.m) && decide (c.m ≤ c.n) && decide (1 ≤ c.h) && decide (9 ≤ c.fb) &&
    decide (c.h ≤ 65536) && c.encs.covers c.n c.h && c.errWf &&
    c.opcodes.disjoint && decide (c.updFull ≠ c.updPart) &&
    (match c.trigForm with
      | .split => true
      | .single f p => decide (f ≠ p)) &&
    c.timing.wf

/-! The `OPEN` parameters that have no default (R7, I14, I15) are uninterpreted: nothing can be proved of their values.
-/

/-- `ENTRY_DATA_M`, OPEN (D39; log 2). -/
opaque openEntryDataM : Byte
/-- `ENTRY_DATA_S`, OPEN (D39; log 2). -/
opaque openEntryDataS : Byte
/-- `BORDER_DATA`, OPEN (D16; log 2). -/
opaque openBorderData : Byte
/-- `TEMP_DATA`, OPEN (D16; log 2). -/
opaque openTempData : Byte
/-- `T_RST_PULSE`, OPEN (D34; log 2). -/
opaque openRstPulse : Nat
/-- `T_BUSY_INIT`, OPEN (D22; log 2). -/
opaque openBusyInit : Nat
/-- `T_BUSY_PART`, OPEN (D22; log 2). -/
opaque openBusyPart : Nat
/-- `T_BUSY_FULL − T_BUSY_PART − 1`, OPEN (D22; log 2): the form that keeps `T_BUSY_PART < T_BUSY_FULL` (R184). -/
opaque openBusyFullExtra : Nat
/-- `T_POLL − 1`, OPEN (D22; log 2): the form that keeps `T_POLL > 0` (R271). -/
opaque openPollExtra : Nat
/-- `T_MAGIC − 1`, OPEN (D9; log 2). -/
opaque openMagicExtra : Nat
/-- `T_LEN − 1`, OPEN (D9; log 2). -/
opaque openLenExtra : Nat
/-- `T_PAY − 1`, OPEN (D9; log 2). -/
opaque openPayExtra : Nat
/-- `T_CRC − 1`, OPEN (D9; log 2). -/
opaque openCrcExtra : Nat

/-- The opcodes of I9, "Default opcodes for an SSD16xx-family dual-controller panel"; spec/opcode_table.json lists the
same bytes. PRESUMED (general knowledge, log 3). -/
def stdOpcodes : Opcodes :=
  { swreset := 0x12#8, entryM := 0x11#8, entryS := 0x91#8, colwinM := 0x44#8, colwinS := 0xC4#8,
    rowwinM := 0x45#8, rowwinS := 0xC5#8, colcurM := 0x4E#8, colcurS := 0xCE#8, rowcurM := 0x4F#8,
    rowcurS := 0xCF#8, newM := 0x24#8, newS := 0xA4#8, oldM := 0x26#8, oldS := 0xA6#8, border := 0x3C#8,
    tempsrc := 0x18#8, update := 0x22#8, activate := 0x20#8 }

/-- The `ENC_*` functions that R152 writes out. -/
def stdEncs : Encodings := { colwin := .std, rowwin := .std, colcur := .std, rowcur := .std }

/-- The `OPEN` timing parameters, with the relations of R271 built in. -/
def stdTiming : Timing :=
  { rstPulse := openRstPulse, busyInit := openBusyInit, busyFull := openBusyPart + 1 + openBusyFullExtra,
    busyPart := openBusyPart, poll := openPollExtra + 1, magic := openMagicExtra + 1, len := openLenExtra + 1,
    pay := openPayExtra + 1, crc := openCrcExtra + 1 }

/-- Configuration D: the default geometry of R6 and the defaults of R7, R87, R152 and I9. -/
def std : Config :=
  { w := 792, h := 272, m := 50, white := 0xFF#8, revBits := false, invert := false, order := .colMajor,
    trigMode := .once, trigForm := .split, coldClear := true, opcodes := stdOpcodes,
    encs := stdEncs, entryDataM := openEntryDataM, entryDataS := openEntryDataS, borderData := openBorderData,
    tempData := openTempData, updFull := 0xF7#8, updPart := 0xFF#8, errPrefix := [0x45#8, 0x52#8],
    errLen := 0x4C#8, errCrc := 0x43#8, timing := stdTiming }

end Config

end Sys2Proof
end

