-- ==== Sys2Proof/Syntax.lean ====
section
/-! DEFINITION. The block's "instructions": one constructor for each row of spec/opcode_table.json (R80), the panel
operations of R12, and `Code`, the encodings the rows have (spec/30_encoding.md). -/

namespace Sys2Proof

/-- The two kinds of update trigger (R90, R175). -/
inductive TrigKind where
  | full | part
deriving DecidableEq, Repr

/-- The bound of a `WAIT(t)`: `T_BUSY_INIT`, `T_BUSY_FULL` or `T_BUSY_PART` (R170). -/
inductive WaitBound where
  | init | full | part
deriving DecidableEq, Repr

/-- A panel operation as the panel port performs it: `CMD(op)`, `DATA(b)`, `RST(t)`, `WAIT(t)` (R12, R185). The one
`RST` is `RST(T_RST_PULSE)` (R171). -/
inductive PortOp where
  | cmd (op : Byte)
  | data (b : Byte)
  | rst
  | wait (t : WaitBound)
deriving DecidableEq, Repr

/-- The header of a payload whose length fits no shape (R202, R203): flags with `is_rect` clear, or flags with it set
and the four geometry fields. -/
inductive BadHeader where
  | full (flags : Byte)
  | rect (flags : Byte) (x y w h : Half)
deriving DecidableEq, Repr

/-- The rows of spec/opcode_table.json, one constructor a row. -/
inductive Instr where
  /-- `MWF1_FRAME` (R81): the LENGTH field, the payload and the CRC trailer of one wire frame -/
  | mwf1Frame (len : Word) (payload : List Byte) (crc : Word)
  /-- `RX_SEEK` (R111) -/
  | rxSeek (b : Byte)
  /-- `RX_LEN` (R113) -/
  | rxLen (b : Byte)
  /-- `RX_LEN_LAST` (R114) -/
  | rxLenLast (b : Byte)
  /-- `RX_PAY` (R116) -/
  | rxPay (b : Byte)
  /-- `RX_CRC` (R117) -/
  | rxCrc (b : Byte)
  /-- `RX_CRC_LAST` (R118) -/
  | rxCrcLast (b : Byte)
  /-- `FRM_LEGACY` (R201, R206) -/
  | frmLegacy
  /-- `FRM_FULL_PARTIAL` (R202, R206) -/
  | frmFullPartial (flags : Byte)
  /-- `FRM_FULL_FORCE` (R202, R207) -/
  | frmFullForce (flags : Byte)
  /-- `FRM_RECT_PARTIAL` (R203, R208) -/
  | frmRectPartial (flags : Byte) (x y w h : Half)
  /-- `FRM_RECT_FORCE` (R203, R209) -/
  | frmRectForce (flags : Byte) (x y w h : Half)
  /-- `BADSHAPE` (R204): the length, and the header the payload has -/
  | badshape (len : Word) (hdr : BadHeader)
  /-- `ACK_OK` (R212) -/
  | ackOk
  /-- `ACK_BADLEN` (R115) -/
  | ackBadlen
  /-- `ACK_BADCRC` (R119) -/
  | ackBadcrc
  /-- `OP_SWRESET` (R171) -/
  | opSwreset
  /-- `OP_ENTRY_M` (R151) -/
  | opEntryM (d : Byte)
  /-- `OP_ENTRY_S` (R151) -/
  | opEntryS (d : Byte)
  /-- `OP_COLWIN_M` (R152): window start and end column -/
  | opColwinM (start stop : Nat)
  /-- `OP_COLWIN_S` (R152) -/
  | opColwinS (start stop : Nat)
  /-- `OP_ROWWIN_M` (R152): window start and end row -/
  | opRowwinM (start stop : Half)
  /-- `OP_ROWWIN_S` (R152) -/
  | opRowwinS (start stop : Half)
  /-- `OP_COLCUR_M` (R152) -/
  | opColcurM (col : Nat)
  /-- `OP_COLCUR_S` (R152) -/
  | opColcurS (col : Nat)
  /-- `OP_ROWCUR_M` (R152) -/
  | opRowcurM (row : Half)
  /-- `OP_ROWCUR_S` (R152) -/
  | opRowcurS (row : Half)
  /-- `OP_NEW_M` (R154): the plane stream -/
  | opNewM (bytes : List Byte)
  /-- `OP_NEW_S` (R154) -/
  | opNewS (bytes : List Byte)
  /-- `OP_OLD_M` (R154) -/
  | opOldM (bytes : List Byte)
  /-- `OP_OLD_S` (R154) -/
  | opOldS (bytes : List Byte)
  /-- `OP_BORDER` (R171) -/
  | opBorder (d : Byte)
  /-- `OP_TEMPSRC` (R171) -/
  | opTempsrc (d : Byte)
  /-- `OP_UPDATE` (R90) -/
  | opUpdate (d : Byte)
  /-- `OP_ACTIVATE` (R90) -/
  | opActivate
  /-- `TRIG_FULL` (R175) -/
  | trigFull
  /-- `TRIG_PART` (R175) -/
  | trigPart
  /-- `RST` (R185) -/
  | rst
  /-- `WAIT` (R170): its bound, and its result, true on `BUSY_IDLE` and false on `BUSY_TIMEOUT` -/
  | wait (t : WaitBound) (idle : Bool)
deriving DecidableEq, Repr

/-- The encodings of spec/30_encoding.md. The rows of the table are not words of one instruction stream: each format has
its own place (R80). -/
inductive Code where
  /-- the bytes of a wire frame, in arrival order (R81) -/
  | wire (bytes : List Byte)
  /-- a receiver event: the 10-bit word {rx_state, b} of R91, and `fld_cnt`, which tells the last byte of a field -/
  | event (fldCnt : BitVec 2) (word : BitVec 10)
  /-- a validated frame: its length, and the header bytes the decode looks at (R86, R200 to R204) -/
  | payload (len : Word) (header : List Byte)
  /-- an acknowledgement, device to host (R87) -/
  | ack (bytes : List Byte)
  /-- a panel command: the command byte and then its data bytes (R88) -/
  | panel (bytes : List Byte)
  /-- a trigger sequence (R90) -/
  | trigger (ops : List PortOp)
  /-- `RST(T_RST_PULSE)` (R12, R185) -/
  | reset
  /-- `WAIT(t)` with the event that ended it (R170) -/
  | waited (t : WaitBound) (idle : Bool)
deriving DecidableEq, Repr

/-- The format of a code. -/
inductive Format where
  | wire | event | payload | ack | panel | trigger | reset | waited
deriving DecidableEq, Repr

/-- The format an encoding has. -/
def Code.format : Code → Format
  | .wire _ => .wire
  | .event _ _ => .event
  | .payload _ _ => .payload
  | .ack _ => .ack
  | .panel _ => .panel
  | .trigger _ => .trigger
  | .reset => .reset
  | .waited _ _ => .waited

/-- The "format" column of spec/opcode_table.json, row by row. -/
def Instr.format : Instr → Format
  | .mwf1Frame _ _ _ => .wire
  | .rxSeek _ => .event
  | .rxLen _ => .event
  | .rxLenLast _ => .event
  | .rxPay _ => .event
  | .rxCrc _ => .event
  | .rxCrcLast _ => .event
  | .frmLegacy => .payload
  | .frmFullPartial _ => .payload
  | .frmFullForce _ => .payload
  | .frmRectPartial _ _ _ _ _ => .payload
  | .frmRectForce _ _ _ _ _ => .payload
  | .badshape _ _ => .payload
  | .ackOk => .ack
  | .ackBadlen => .ack
  | .ackBadcrc => .ack
  | .opSwreset => .panel
  | .opEntryM _ => .panel
  | .opEntryS _ => .panel
  | .opColwinM _ _ => .panel
  | .opColwinS _ _ => .panel
  | .opRowwinM _ _ => .panel
  | .opRowwinS _ _ => .panel
  | .opColcurM _ => .panel
  | .opColcurS _ => .panel
  | .opRowcurM _ => .panel
  | .opRowcurS _ => .panel
  | .opNewM _ => .panel
  | .opNewS _ => .panel
  | .opOldM _ => .panel
  | .opOldS _ => .panel
  | .opBorder _ => .panel
  | .opTempsrc _ => .panel
  | .opUpdate _ => .panel
  | .opActivate => .panel
  | .trigFull => .trigger
  | .trigPart => .trigger
  | .rst => .reset
  | .wait _ _ => .waited

end Sys2Proof
end

