-- ==== Sys2Proof/WellFormed.lean ====
section
/-! DEFINITION. Which instructions an encoding can hold: the operands of each row agree with its match and mask, its
length and its shape (spec/opcode_table.json, spec/30_encoding.md R81 to R86), and a window or a cursor is one that the
`ENC_*` functions send (R152). -/

namespace Sys2Proof

/-- A flags byte matches a table row's `match` under the row's mask 0x03 (spec/opcode_table.json, R84). -/
def flagsMatch (flags pattern : Byte) : Bool := decide (flags &&& 0x03#8 = pattern)

/-- A header that fits no shape at length `len` (R202, R203, R204): bit 1 of the flags byte, under the table's mask 0x02,
says which shape it claims. -/
def BadHeader.wf (c : Config) (len : Nat) : BadHeader → Bool
  | .full flags => decide (flags &&& 0x02#8 = 0x00#8) && decide (len ≠ c.fb + 1)
  | .rect flags _ _ w h => decide (flags &&& 0x02#8 = 0x02#8) && decide (len ≠ 9 + w.toNat / 8 * h.toNat)

/-- The instructions that have an encoding under the parameters `c`. -/
def Instr.wf (c : Config) : Instr → Bool
  | .mwf1Frame len payload _ => decide (payload.length = len.toNat)
  | .rxSeek _ => true
  | .rxLen _ => true
  | .rxLenLast _ => true
  | .rxPay _ => true
  | .rxCrc _ => true
  | .rxCrcLast _ => true
  | .frmLegacy => decide (c.fb < 2 ^ 32)
  | .frmFullPartial flags => flagsMatch flags 0x00#8 && decide (c.fb + 1 < 2 ^ 32)
  | .frmFullForce flags => flagsMatch flags 0x01#8 && decide (c.fb + 1 < 2 ^ 32)
  | .frmRectPartial flags _ _ w h =>
    flagsMatch flags 0x02#8 && decide (9 + w.toNat / 8 * h.toNat ≠ c.fb)
  | .frmRectForce flags _ _ w h =>
    flagsMatch flags 0x03#8 && decide (9 + w.toNat / 8 * h.toNat ≠ c.fb)
  | .badshape len hdr => decide (len.toNat ≠ c.fb) && hdr.wf c len.toNat
  | .ackOk => true
  | .ackBadlen => true
  | .ackBadcrc => true
  | .opSwreset => true
  | .opEntryM _ => true
  | .opEntryS _ => true
  | .opColwinM start stop => c.encs.hasColwin start stop
  | .opColwinS start stop => c.encs.hasColwin start stop
  | .opRowwinM start stop => c.encs.hasRowwin start stop
  | .opRowwinS start stop => c.encs.hasRowwin start stop
  | .opColcurM col => c.encs.hasColcur col
  | .opColcurS col => c.encs.hasColcur col
  | .opRowcurM row => c.encs.hasRowcur row
  | .opRowcurS row => c.encs.hasRowcur row
  | .opNewM _ => true
  | .opNewS _ => true
  | .opOldM _ => true
  | .opOldS _ => true
  | .opBorder _ => true
  | .opTempsrc _ => true
  | .opUpdate _ => true
  | .opActivate => true
  | .trigFull => true
  | .trigPart => true
  | .rst => true
  | .wait _ _ => true

end Sys2Proof
end

