-- ==== Sys2Proof/Decode.lean ====
section
/-! DEFINITION. Byte order, the decoder (total on any bytes, rejecting by name) and, after it, the encoder
(spec/30_encoding.md). -/

namespace Sys2Proof

/-! ### Byte order (R65, R82, R85) -/

/-- `lo | hi << 8`: a 16-bit little-endian field from its two bytes in arrival order (R65, R85). -/
def le16 (lo hi : Byte) : Half := hi ++ lo

/-- The low byte of a 16-bit value. -/
def loByte (v : Half) : Byte := v.extractLsb' 0 8

/-- The high byte of a 16-bit value. -/
def hiByte (v : Half) : Byte := v.extractLsb' 8 8

/-- The two bytes of a 16-bit value, low byte first (R67, R152). -/
def bytes16 (v : Half) : List Byte := [loByte v, hiByte v]

/-- `b0 | b1 << 8 | b2 << 16 | b3 << 24`: a 32-bit little-endian field (R82). -/
def le32 (b0 b1 b2 b3 : Byte) : Word := b3 ++ b2 ++ b1 ++ b0

/-- Byte `i` of a 32-bit value, byte 0 the least significant. -/
def byteOf (v : Word) (i : Nat) : Byte := v.extractLsb' (8 * i) 8

/-- `LE32(v)`: the four little-endian bytes of `v` (R95). -/
def bytes32 (v : Word) : List Byte := [byteOf v 0, byteOf v 1, byteOf v 2, byteOf v 3]

/-- MAGIC, `4D 57 46 31` (R7, R81). -/
def magic : List Byte := [0x4D#8, 0x57#8, 0x46#8, 0x31#8]

/-- `ACK_OK`, `4F 4B` (R87). -/
def ackOkBytes : List Byte := [0x4F#8, 0x4B#8]

/-- `ACK_BADLEN`, `ERR_PREFIX ‖ ERR_LEN` (R87). -/
def ackBadlenBytes (c : Config) : List Byte := c.errPrefix ++ [c.errLen]

/-- `ACK_BADCRC`, `ERR_PREFIX ‖ ERR_CRC` (R87). -/
def ackBadcrcBytes (c : Config) : List Byte := c.errPrefix ++ [c.errCrc]

/-! ### Window and cursor parameters (R152, I3) -/

/-- The bytes a table lists for an operand, first row first; none where it lists none, which a panel never asks for
(`Encodings.covers`). -/
def tableBytes {α : Type} [DecidableEq α] : List (α × List Byte) → α → List Byte
  | [], _ => []
  | (k, bytes) :: rows, a => if k = a then bytes else tableBytes rows a

/-- The value of an `ENC_*` function: R152's, `default`, or the deployment's. -/
def encValue {α : Type} [DecidableEq α] (default : α → List Byte) (e : Enc α) (a : α) : List Byte :=
  match e with
  | .std => default a
  | .table rows => tableBytes rows a

/-- The operand that some data bytes stand for: by `undo` under R152's function, else the first one listed that is sent as
those bytes. -/
def encOperand {α : Type} [DecidableEq α] (undo : List Byte → Option α) (e : Enc α) (bytes : List Byte) : Option α :=
  match e with
  | .std => undo bytes
  | .table rows => (rows.map Prod.fst).find? fun a => decide (tableBytes rows a = bytes)

/-- `ENC_COLWIN(s, e)`; by default `EmitData(s[7:0]); EmitData(e[7:0])` (R152). -/
def encColwin (t : Encodings) (start stop : Nat) : List Byte :=
  encValue (fun a => [BitVec.ofNat 8 a.1, BitVec.ofNat 8 a.2]) t.colwin (start, stop)

/-- `ENC_ROWWIN(s, e)`; by default each row in two bytes, low byte first (R67, R152). -/
def encRowwin (t : Encodings) (start stop : Half) : List Byte :=
  encValue (fun a => bytes16 a.1 ++ bytes16 a.2) t.rowwin (start, stop)

/-- `ENC_COLCUR(c)`; by default `EmitData(c[7:0])` (R152). -/
def encColcur (t : Encodings) (col : Nat) : List Byte :=
  encValue (fun a => [BitVec.ofNat 8 a]) t.colcur col

/-- `ENC_ROWCUR(r)`; by default two bytes, low byte first (R67, R152). -/
def encRowcur (t : Encodings) (row : Half) : List Byte :=
  encValue bytes16 t.rowcur row

/-- The window that `ENC_COLWIN` sends as these bytes. -/
def undoColwin (t : Encodings) : List Byte → Option (Nat × Nat) :=
  encOperand (fun
    | [s, e] => some (s.toNat, e.toNat)
    | _ => none) t.colwin

/-- The window that `ENC_ROWWIN` sends as these bytes. -/
def undoRowwin (t : Encodings) : List Byte → Option (Half × Half) :=
  encOperand (fun
    | [s0, s1, e0, e1] => some (le16 s0 s1, le16 e0 e1)
    | _ => none) t.rowwin

/-- The column that `ENC_COLCUR` sends as these bytes. -/
def undoColcur (t : Encodings) : List Byte → Option Nat :=
  encOperand (fun
    | [col] => some col.toNat
    | _ => none) t.colcur

/-- The row that `ENC_ROWCUR` sends as these bytes. -/
def undoRowcur (t : Encodings) : List Byte → Option Half :=
  encOperand (fun
    | [r0, r1] => some (le16 r0 r1)
    | _ => none) t.rowcur

/-- A table sends no two of the operands it lists as the same bytes. -/
def encInjective {α : Type} [DecidableEq α] : Enc α → Bool
  | .std => true
  | .table rows => (rows.map Prod.fst).all fun a => (rows.map Prod.fst).all fun b =>
      decide (tableBytes rows a = tableBytes rows b → a = b)

/-- A reader of the port can tell every command and operand by its bytes. The spec asks this of no deployment; the block, which
only writes the bytes, does not need it. -/
def Config.readable (c : Config) : Bool :=
  c.opcodes.distinct && encInjective c.encs.colwin && encInjective c.encs.rowwin && encInjective c.encs.colcur &&
    encInjective c.encs.rowcur

/-- `force_full`, bit 0 of the flags byte (R84). -/
def flagForce (flags : Byte) : Bool := flags.getLsbD 0

/-- `is_rect`, bit 1 of the flags byte (R84). -/
def flagRect (flags : Byte) : Bool := flags.getLsbD 1

/-- The length of a flagged rectangle payload, `9 + (w div 8) × h` (R83, R203). -/
def rectLen (w h : Half) : Nat := 9 + w.toNat / 8 * h.toNat

/-- The receiver event word `{rx_state[1:0], b[7:0]}` (R91), from the code of `rx_state`. -/
def eventWord (state : BitVec 2) (b : Byte) : BitVec 10 := state ++ b

/-- `TRIG(kind)` as panel port operations (R90). -/
def trigPortOps (c : Config) (k : TrigKind) : List PortOp :=
  match c.trigForm, k with
  | .split, .full => [.cmd (c.opcodes.byte .update), .data c.updFull, .cmd (c.opcodes.byte .activate)]
  | .split, .part => [.cmd (c.opcodes.byte .update), .data c.updPart, .cmd (c.opcodes.byte .activate)]
  | .single f _, .full => [.cmd f]
  | .single _ p, .part => [.cmd p]

/-! ### The decoder -/

/-- Why a code is refused, by name. -/
inductive DecodeError where
  /-- the bytes do not begin with MAGIC (R81) -/
  | badMagic
  /-- a wire frame ends before its trailer does, or goes on after it (R81, R92) -/
  | wireLength
  /-- a frame with a flags byte or geometry fields missing from its header (R202, R203) -/
  | shortHeader
  /-- no acknowledgement has these bytes (R87) -/
  | unknownAck
  /-- a panel command with no command byte -/
  | noCommand
  /-- no panel command has this byte (R88) -/
  | unknownOpcode
  /-- a panel command with data bytes it cannot have: another number of them than R88 gives it, or bytes that no operand is sent
  as (R152) -/
  | dataCount
  /-- no trigger sequence has these operations (R90) -/
  | unknownTrigger
deriving DecidableEq, Repr

/-- A receiver event (R91): the two state bits select the event, and `fld_cnt = 3` its last-byte form. Every word has a
meaning. -/
def decodeEvent (fldCnt : BitVec 2) (word : BitVec 10) : Instr :=
  let b : Byte := word.extractLsb' 0 8
  let state : BitVec 2 := word.extractLsb' 8 2
  if state = 0#2 then .rxSeek b
  else if state = 1#2 then if fldCnt = 3#2 then .rxLenLast b else .rxLen b
  else if state = 2#2 then .rxPay b
  else if fldCnt = 3#2 then .rxCrcLast b else .rxCrc b

/-- A wire frame, from its bytes in arrival order (R81, R82). -/
def decodeWire (bytes : List Byte) : Except DecodeError Instr :=
  if bytes.take 4 = magic then
    match bytes.drop 4 with
    | l0 :: l1 :: l2 :: l3 :: body =>
      let len := le32 l0 l1 l2 l3
      match body.drop len.toNat with
      | [c0, c1, c2, c3] => .ok (.mwf1Frame len (body.take len.toNat) (le32 c0 c1 c2 c3))
      | _ => .error .wireLength
    | _ => .error .wireLength
  else .error .badMagic

/-- The flagged rectangle shape (R203): the four geometry fields, the length check, and `force_full`. -/
def decodeRect (len : Word) (flags : Byte) (x y w h : Half) : Instr :=
  if len.toNat = rectLen w h then
    if flagForce flags then .frmRectForce flags x y w h else .frmRectPartial flags x y w h
  else .badshape len (.rect flags x y w h)

/-- The flagged full-frame shape (R202). -/
def decodeFull (c : Config) (len : Word) (flags : Byte) : Instr :=
  if len.toNat = c.fb + 1 then
    if flagForce flags then .frmFullForce flags else .frmFullPartial flags
  else .badshape len (.full flags)

/-- A validated frame, by its length first and then by `flags[1]` (R86, R200 to R204). The check `L = FB` comes before
any look at the header (R201). -/
def decodePayload (c : Config) (len : Word) (header : List Byte) : Except DecodeError Instr :=
  if len.toNat = c.fb then .ok .frmLegacy
  else
    match header with
    | [] => .error .shortHeader
    | flags :: rest =>
      if flagRect flags then
        match rest with
        | x0 :: x1 :: y0 :: y1 :: w0 :: w1 :: h0 :: h1 :: _ =>
          .ok (decodeRect len flags (le16 x0 x1) (le16 y0 y1) (le16 w0 w1) (le16 h0 h1))
        | _ => .error .shortHeader
      else .ok (decodeFull c len flags)

/-- An acknowledgement, by its bytes (R87). -/
def decodeAck (c : Config) (bytes : List Byte) : Except DecodeError Instr :=
  if bytes = ackOkBytes then .ok .ackOk
  else if bytes = ackBadlenBytes c then .ok .ackBadlen
  else if bytes = ackBadcrcBytes c then .ok .ackBadcrc
  else .error .unknownAck

/-- The command a byte stands for (R88). -/
def findOpcode (t : Opcodes) (b : Byte) : Option Opcode :=
  Opcode.all.find? fun o => decide (t.byte o = b)

/-- The instruction of an operand, if the data bytes have one. -/
def operandInstr {α : Type} (f : α → Instr) : Option α → Except DecodeError Instr
  | some a => .ok (f a)
  | none => .error .dataCount

/-- A panel command with its data bytes (R88, R152). -/
def panelInstr (t : Encodings) : Opcode → List Byte → Except DecodeError Instr
  | .swreset, [] => .ok .opSwreset
  | .entry .master, [d] => .ok (.opEntryM d)
  | .entry .slave, [d] => .ok (.opEntryS d)
  | .colwin .master, bytes => operandInstr (fun a => .opColwinM a.1 a.2) (undoColwin t bytes)
  | .colwin .slave, bytes => operandInstr (fun a => .opColwinS a.1 a.2) (undoColwin t bytes)
  | .rowwin .master, bytes => operandInstr (fun a => .opRowwinM a.1 a.2) (undoRowwin t bytes)
  | .rowwin .slave, bytes => operandInstr (fun a => .opRowwinS a.1 a.2) (undoRowwin t bytes)
  | .colcur .master, bytes => operandInstr .opColcurM (undoColcur t bytes)
  | .colcur .slave, bytes => operandInstr .opColcurS (undoColcur t bytes)
  | .rowcur .master, bytes => operandInstr .opRowcurM (undoRowcur t bytes)
  | .rowcur .slave, bytes => operandInstr .opRowcurS (undoRowcur t bytes)
  | .plane .master .new, bytes => .ok (.opNewM bytes)
  | .plane .slave .new, bytes => .ok (.opNewS bytes)
  | .plane .master .old, bytes => .ok (.opOldM bytes)
  | .plane .slave .old, bytes => .ok (.opOldS bytes)
  | .border, [d] => .ok (.opBorder d)
  | .tempsrc, [d] => .ok (.opTempsrc d)
  | .update, [d] => .ok (.opUpdate d)
  | .activate, [] => .ok .opActivate
  | _, _ => .error .dataCount

/-- A panel command from its bytes (R88). -/
def decodePanel (c : Config) : List Byte → Except DecodeError Instr
  | [] => .error .noCommand
  | b :: data =>
    match findOpcode c.opcodes b with
    | none => .error .unknownOpcode
    | some o => panelInstr c.encs o data

/-- A trigger sequence (R90). -/
def decodeTrigger (c : Config) (ops : List PortOp) : Except DecodeError Instr :=
  if ops = trigPortOps c .full then .ok .trigFull
  else if ops = trigPortOps c .part then .ok .trigPart
  else .error .unknownTrigger

/-- The decoder: total, each refusal by name. -/
def decode (c : Config) : Code → Except DecodeError Instr
  | .wire bytes => decodeWire bytes
  | .event fldCnt word => .ok (decodeEvent fldCnt word)
  | .payload len header => decodePayload c len header
  | .ack bytes => decodeAck c bytes
  | .panel bytes => decodePanel c bytes
  | .trigger ops => decodeTrigger c ops
  | .reset => .ok .rst
  | .waited t idle => .ok (.wait t idle)

/-! ### The encoder -/

/-- The header bytes of a rectangle payload: flags and the four geometry fields (R83, R85). -/
def rectHeader (flags : Byte) (x y w h : Half) : List Byte :=
  flags :: (bytes16 x ++ bytes16 y ++ bytes16 w ++ bytes16 h)

/-- A wire frame's bytes: `MAGIC ‖ LE32(L) ‖ P ‖ LE32(CRC)` (R81, R95). -/
def wireBytes (len : Word) (payload : List Byte) (crc : Word) : List Byte :=
  magic ++ bytes32 len ++ payload ++ bytes32 crc

/-- A panel command's bytes: the opcode and its data bytes (R88). -/
def panelCode (c : Config) (o : Opcode) (data : List Byte) : Code := .panel (c.opcodes.byte o :: data)

/-- The encoding of an instruction, from the tables of spec/30_encoding.md. -/
def encode (c : Config) : Instr → Code
  | .mwf1Frame len payload crc => .wire (wireBytes len payload crc)
  | .rxSeek b => .event 0#2 (eventWord 0#2 b)
  | .rxLen b => .event 0#2 (eventWord 1#2 b)
  | .rxLenLast b => .event 3#2 (eventWord 1#2 b)
  | .rxPay b => .event 0#2 (eventWord 2#2 b)
  | .rxCrc b => .event 0#2 (eventWord 3#2 b)
  | .rxCrcLast b => .event 3#2 (eventWord 3#2 b)
  | .frmLegacy => .payload (BitVec.ofNat 32 c.fb) []
  | .frmFullPartial flags => .payload (BitVec.ofNat 32 (c.fb + 1)) [flags]
  | .frmFullForce flags => .payload (BitVec.ofNat 32 (c.fb + 1)) [flags]
  | .frmRectPartial flags x y w h => .payload (BitVec.ofNat 32 (rectLen w h)) (rectHeader flags x y w h)
  | .frmRectForce flags x y w h => .payload (BitVec.ofNat 32 (rectLen w h)) (rectHeader flags x y w h)
  | .badshape len (.full flags) => .payload len [flags]
  | .badshape len (.rect flags x y w h) => .payload len (rectHeader flags x y w h)
  | .ackOk => .ack ackOkBytes
  | .ackBadlen => .ack (ackBadlenBytes c)
  | .ackBadcrc => .ack (ackBadcrcBytes c)
  | .opSwreset => panelCode c .swreset []
  | .opEntryM d => panelCode c (.entry .master) [d]
  | .opEntryS d => panelCode c (.entry .slave) [d]
  | .opColwinM s e => panelCode c (.colwin .master) (encColwin c.encs s e)
  | .opColwinS s e => panelCode c (.colwin .slave) (encColwin c.encs s e)
  | .opRowwinM s e => panelCode c (.rowwin .master) (encRowwin c.encs s e)
  | .opRowwinS s e => panelCode c (.rowwin .slave) (encRowwin c.encs s e)
  | .opColcurM col => panelCode c (.colcur .master) (encColcur c.encs col)
  | .opColcurS col => panelCode c (.colcur .slave) (encColcur c.encs col)
  | .opRowcurM r => panelCode c (.rowcur .master) (encRowcur c.encs r)
  | .opRowcurS r => panelCode c (.rowcur .slave) (encRowcur c.encs r)
  | .opNewM bytes => panelCode c (.plane .master .new) bytes
  | .opNewS bytes => panelCode c (.plane .slave .new) bytes
  | .opOldM bytes => panelCode c (.plane .master .old) bytes
  | .opOldS bytes => panelCode c (.plane .slave .old) bytes
  | .opBorder d => panelCode c .border [d]
  | .opTempsrc d => panelCode c .tempsrc [d]
  | .opUpdate d => panelCode c .update [d]
  | .opActivate => panelCode c .activate []
  | .trigFull => .trigger (trigPortOps c .full)
  | .trigPart => .trigger (trigPortOps c .part)
  | .rst => .reset
  | .wait t idle => .waited t idle

/-! ### The table's words -/

/-- The bytes of `w`, `k` of them, byte 0 the least significant. -/
def wordBytes : Nat → Nat → List Byte
  | 0, _ => []
  | k + 1, w => BitVec.ofNat 8 w :: wordBytes k (w / 256)

/-- How many data bytes a command takes where R88 gives it a fixed number (0 for a plane stream), with R152's functions. -/
def dataArity : Opcode → Nat
  | .swreset => 0
  | .entry _ => 1
  | .colwin _ => 2
  | .rowwin _ => 4
  | .colcur _ => 1
  | .rowcur _ => 2
  | .plane _ _ => 0
  | .border => 1
  | .tempsrc => 1
  | .update => 1
  | .activate => 0

/-- The code that a word of spec/opcode_table.json stands for, every bit the instruction has above `nbits` being 0 (log
18). 8 bits: a panel command byte with its data bytes zero, or else the flags byte of a flagged payload, with the geometry
fields zero and the length its shape has. 16 bits: a receiver event word with `fld_cnt` 0, or else the two bytes of an
acknowledgement. 24 bits: the three bytes of an acknowledgement. 32 bits: the first bytes of a wire frame, LENGTH and trailer
zero. -/
def tableCode (c : Config) (nbits w : Nat) : Option Code :=
  match nbits with
  | 8 =>
    match findOpcode c.opcodes (BitVec.ofNat 8 w) with
    | some o => some (.panel (BitVec.ofNat 8 w :: List.replicate (dataArity o) 0#8))
    | none =>
      if flagRect (BitVec.ofNat 8 w) then some (.payload 9#32 (BitVec.ofNat 8 w :: List.replicate 8 0#8))
      else some (.payload (BitVec.ofNat 32 (c.fb + 1)) [BitVec.ofNat 8 w])
  | 16 => if w < 1024 then some (.event 0#2 (BitVec.ofNat 10 w)) else some (.ack (wordBytes 2 w))
  | 24 => some (.ack (wordBytes 3 w))
  | 32 => some (.wire (wordBytes 4 w ++ List.replicate 8 0#8))
  | _ => none

/-- The instruction the decoder reads from a word of spec/opcode_table.json, under the parameters of State.reset. -/
def decodeTableWord (nbits w : Nat) : Option Instr :=
  match tableCode Config.std nbits w with
  | none => none
  | some code => (decode Config.std code).toOption

end Sys2Proof
end

