-- ==== Sys2Proof/Machine/State.lean ====
section
/-! DEFINITION. The block's state as plain data (spec/10_state.md), why a step can stop, and the state after reset
(R46). -/

namespace Sys2Proof.Machine

/-- `rx_state` (R22). -/
inductive RxState where
  | seekMagic | readLength | readPayload | readCrc
deriving DecidableEq, Repr

/-- `phase` (R28). -/
inductive Phase where
  | bringup | receive | dispatch | ack
deriving DecidableEq, Repr

/-- `last_result` (R30); codes 5 to 7 are never written (I21). -/
inductive LastResult where
  | none | ok | rejected | hwTimeout | notReady
deriving DecidableEq, Repr

/-- `f_shape` (R33). -/
inductive FShape where
  | legacy | full | rect | badshape
deriving DecidableEq, Repr

/-- An item of the panel queue: one panel command with its data bytes, or a trigger, reset pulse or wait. `pq` of R34 is
the list of R12's operations that these stand for, in the same order (log 9). -/
inductive PanelOp where
  /-- `CMD(OP_SWRESET)` -/
  | swreset
  /-- `CMD(OP_ENTRY_c)` and its data byte -/
  | entry (c : Ctl) (d : Byte)
  /-- `CMD(OP_COLWIN_c)` and `ENC_COLWIN(start, stop)` -/
  | colwin (c : Ctl) (start stop : Nat)
  /-- `CMD(OP_ROWWIN_c)` and `ENC_ROWWIN(start, stop)` -/
  | rowwin (c : Ctl) (start stop : Half)
  /-- `CMD(OP_COLCUR_c)` and `ENC_COLCUR(col)` -/
  | colcur (c : Ctl) (col : Nat)
  /-- `CMD(OP_ROWCUR_c)` and `ENC_ROWCUR(row)` -/
  | rowcur (c : Ctl) (row : Half)
  /-- `CMD(OP_NEW_c)` or `CMD(OP_OLD_c)` and the plane stream -/
  | plane (c : Ctl) (p : Plane) (bytes : List Byte)
  /-- `CMD(OP_BORDER)` and its data byte -/
  | border (d : Byte)
  /-- `CMD(OP_TEMPSRC)` and its data byte -/
  | tempsrc (d : Byte)
  /-- `CMD(OP_UPDATE)` and its data byte -/
  | update (d : Byte)
  /-- `CMD(OP_ACTIVATE)` -/
  | activate
  /-- `TRIGGER(kind)` (R175): `TRIG(kind)` and then its `WAIT` -/
  | trig (k : TrigKind)
  /-- `RST(T_RST_PULSE)` -/
  | rst
  /-- `WAIT(t)` -/
  | wait (t : WaitBound)
deriving DecidableEq, Repr

/-- The inputs of one step: the input ports (R40 to R44) and the environment events of time (R241), as levels, so that
events at one edge can coincide (R240). -/
structure Edge where
  /-- `rst` -/
  rst : Bool
  /-- `rx_valid`: the host offers the next byte of `hostQ` -/
  rxValid : Bool
  /-- `tx_ready`: the host takes the offered acknowledgement byte -/
  txReady : Bool
  /-- `pnl_ready`: the panel port takes the offered transfer -/
  pnlReady : Bool
  /-- `EXPIRE_FIELD` -/
  expireField : Bool
  /-- `EXPIRE_SEEK` -/
  expireSeek : Bool
  /-- `BUSY_IDLE` -/
  busyIdle : Bool
  /-- `BUSY_TIMEOUT` -/
  busyTimeout : Bool
deriving DecidableEq, Repr

/-- The inputs when `env` lists none, the conventions of 95_test_vectors.md section 1: the host offers its bytes and
takes every acknowledgement byte, the panel port is ready, every wait sees idle, no timer expires (DESIGN CHOICE, log 6). -/
def Edge.calm : Edge :=
  { rst := false, rxValid := true, txReady := true, pnlReady := true, expireField := false, expireSeek := false,
    busyIdle := true, busyTimeout := false }

/-- A byte memory: (address, byte) cells in one canonical form, addresses strictly rising. -/
abbrev Mem := List Host.Cell

/-- Every address of the list is above `a`, and they rise strictly. -/
def Mem.risingFrom : Nat → Mem → Bool
  | _, [] => true
  | a, (k, _) :: t => decide (a < k) && Mem.risingFrom k t

/-- The addresses rise strictly. -/
def Mem.rising : Mem → Bool
  | [] => true
  | (k, _) :: t => Mem.risingFrom k t

/-- The canonical form: addresses strictly rising, and no entry equal to what an unlisted address reads as (`unlisted`,
`none` for no value). -/
def Mem.wf (unlisted : Option Byte) (m : Mem) : Bool :=
  m.rising && m.all fun c => decide (some c.2 ≠ unlisted)

/-- The block's state (R20 to R47), its build-time parameters (R6, R7), and the model's own fields (log 1, 6, 7, 8,
10). -/
structure State where
  /-- the build-time parameters (R6, R7); no step changes them (R8) -/
  cfg : Config
  /-- `rx_state` (R22) -/
  rxState : RxState
  /-- `win[0]` (R23) -/
  win0 : Byte
  /-- `win[1]` (R23) -/
  win1 : Byte
  /-- `win[2]` (R23) -/
  win2 : Byte
  /-- `win[3]` (R23) -/
  win3 : Byte
  /-- `win_cnt` (R23) -/
  winCnt : BitVec 3
  /-- `fld_acc` (R24) -/
  fldAcc : Word
  /-- `fld_cnt` (R24) -/
  fldCnt : BitVec 2
  /-- `frm_len` (R25) -/
  frmLen : Word
  /-- `pay_cnt` (R26) -/
  payCnt : Nat
  /-- `crc` (R27) -/
  crc : Word
  /-- `phase` (R28) -/
  phase : Phase
  /-- `ready` (R29) -/
  ready : Bool
  /-- `last_result` (R30) -/
  lastResult : LastResult
  /-- `ack_q` (R31), head first -/
  ackQ : List Byte
  /-- `wait_fail` (R32) -/
  waitFail : Bool
  /-- `f_shape` (R33) -/
  fShape : FShape
  /-- `f_flags` (R33, R35) -/
  fFlags : Byte
  /-- `f_x` (R33) -/
  fX : Half
  /-- `f_y` (R33) -/
  fY : Half
  /-- `f_w` (R33) -/
  fW : Half
  /-- `f_h` (R33) -/
  fH : Half
  /-- `pq` (R34): the operations not yet started, head first -/
  pq : List PanelOp
  /-- `pq` (R34): the data bytes of the command last sent that are still to be transferred -/
  dq : List Byte
  /-- `bu_stage` (R47) -/
  buStage : Bool
  /-- `RXBUF` (R36): an unlisted address holds no value -/
  rxbuf : Mem
  /-- `PREV` (R37): an unlisted address holds `WHITE` -/
  prev : Mem
  /-- the model's own: the frame in dispatch has been decoded and its operations queued (R213; log 10) -/
  draining : Bool
  /-- the environment's own: the inputs of the coming steps, next first (log 6) -/
  env : List Edge
  /-- the host's own: bytes waiting upstream of the receive port, next first (R41; log 7) -/
  hostQ : List Byte
  /-- the model's record of the panel operations performed, newest first (R12; log 8) -/
  panelOut : List PortOp
  /-- the model's record of the acknowledgement bytes taken by the host, newest first (R42; log 8) -/
  ackOut : List Byte
deriving DecidableEq, Repr

/-- Why a step stops with a fault. No state reachable from reset raises one; each is the answer the spec asks for in a state
that a right transcription never reaches (R71, I1). All are safe: the model stops where the block has no behaviour. -/
inductive Fault where
  /-- an RXBUF access at or above MAXLEN, or a payload read at or above `frm_len` (R63, R71): raised by `RX_PAY` and by
  the payload reads of a dispatch; safe -/
  | rxbufIndex
  /-- a payload read of an RXBUF byte that holds no value (R36, I1): raised by the payload reads of a dispatch; safe -/
  | rxbufUnwritten
  /-- an index at or above FB into PREV, an image or the white source (R71): raised by the samplers and by the PREV
  writes; safe -/
  | imageIndex
  /-- a window count above 3, which R23 excludes: raised by `RX_SEEK`; safe -/
  | windowCount
  /-- a payload header that the decoder refuses, which R200 excludes: raised by the decode of a dispatch; safe -/
  | payloadHeader
deriving DecidableEq, Repr

/-- Why an instruction has no meaning. -/
inductive Refusal where
  /-- an instruction with no meaning yet, by its mnemonic: raised only by exec's refused arms, of which there are none; safe -/
  | notModelled (mnemonic : String)
deriving DecidableEq, Repr

/-- What a step answers. -/
abbrev Result := Host.Outcome State Fault Refusal

/-- The contents of `pq` at reset (R171, R262): the hardware reset pulse, the software reset, each followed by a wait, then the
border waveform and the temperature source. -/
def bringupOps (c : Config) : List PanelOp :=
  [.rst, .wait .init, .swreset, .wait .init, .border c.borderData, .tempsrc c.tempData]

/-- The reset state of a block built with the parameters `c` (R46, R260). `win` is unspecified there (R23, I2): 0 is the
model's value (DESIGN CHOICE, log 4). RXBUF lists nothing (no byte holds a value, R36) and PREV lists nothing (every byte is
`WHITE`, R37). -/
def State.resetOf (c : Config) : State :=
  { cfg := c
    rxState := .seekMagic, win0 := 0, win1 := 0, win2 := 0, win3 := 0, winCnt := 0
    fldAcc := 0, fldCnt := 0, frmLen := 0, payCnt := 0, crc := 0xFFFFFFFF#32
    phase := .bringup, ready := false, lastResult := .none, ackQ := [], waitFail := false
    fShape := .legacy, fFlags := 0, fX := 0, fY := 0, fW := 0, fH := 0
    pq := bringupOps c, dq := [], buStage := false
    rxbuf := [], prev := []
    draining := false, env := [], hostQ := [], panelOut := [], ackOut := [] }

/-- The machine right after reset (R46), with the default parameters. -/
def State.reset : State := State.resetOf Config.std

end Sys2Proof.Machine
end

