-- ==== Sys2Proof/Machine/Ops.lean ====
section
/-! DEFINITION. The named operations over memories and registers: reading and writing a byte, the resync, `SendAck`, the
eight error conditions as ONE shared operation (`raiseCond`, spec/60_exceptions.md R230 to R238), and reset.

The block has no trap mechanism (R230): no handler, no saved state, no vector, no mode. Its counterpart of "taking an
exception" is the in-line response of a condition, and there is no return operation (R244). -/

namespace Sys2Proof.Machine

/-! ### Byte memories (R60, R68) -/

/-- The byte listed at address `a`. -/
def Mem.find : Mem → Nat → Option Byte
  | [], _ => none
  | (k, v) :: t, a => if k = a then some v else Mem.find t a

/-- What address `a` reads as: the listed byte, or what an unlisted address reads as. -/
def Mem.read (unlisted : Option Byte) (m : Mem) (a : Nat) : Option Byte :=
  match Mem.find m a with
  | some v => some v
  | none => unlisted

/-- List `v` at address `a`, in address order, in place of what was listed there. -/
def Mem.insert : Mem → Nat → Byte → Mem
  | [], a, v => [(a, v)]
  | (k, w) :: t, a, v =>
    if a < k then (a, v) :: (k, w) :: t
    else if a = k then (a, v) :: t
    else (k, w) :: Mem.insert t a v

/-- List nothing at address `a`. -/
def Mem.erase : Mem → Nat → Mem
  | [], _ => []
  | (k, w) :: t, a => if k = a then t else (k, w) :: Mem.erase t a

/-- Write one byte, keeping the canonical form: writing what an unlisted address reads as removes the entry. -/
def Mem.put (unlisted : Option Byte) (m : Mem) (a : Nat) (v : Byte) : Mem :=
  if some v = unlisted then Mem.erase m a else Mem.insert m a v

/-- Write a list of (address, byte) pairs. -/
def Mem.putAll (unlisted : Option Byte) (m : Mem) (cells : List Host.Cell) : Mem :=
  cells.foldr (fun c acc => Mem.put unlisted acc c.1 c.2) m

/-- `RXBUF[a]`, if `a` is an address of RXBUF and the byte holds a value (R36). -/
def State.rxByte (s : State) (a : Nat) : Option Byte :=
  if a < s.cfg.maxlen then Mem.read none s.rxbuf a else none

/-- `PREV[a]`, if `a` is an address of PREV (R37). -/
def State.prevByte (s : State) (a : Nat) : Option Byte :=
  if a < s.cfg.fb then Mem.read (some s.cfg.white) s.prev a else none

/-- `MemWrite(RXBUF, a, 1, b)` (R11); an address outside RXBUF faults (R71). -/
def writeRxbuf (s : State) (a : Nat) (b : Byte) : Except Fault State :=
  if a < s.cfg.maxlen then .ok { s with rxbuf := Mem.put none s.rxbuf a b } else .error .rxbufIndex

/-- `MemWrite(PREV, a, 1, b)` for each pair (R11); an address outside PREV faults (R71). -/
def writePrev (c : Config) (m : Mem) (cells : List Host.Cell) : Except Fault Mem :=
  if cells.all (fun cell => decide (cell.1 < c.fb)) then .ok (Mem.putAll (some c.white) m cells)
  else .error .imageIndex

/-! ### Sequences that can fault -/

/-- `f` of every element, in order, or the first fault. -/
def collect {α β : Type} (f : α → Except Fault β) : List α → Except Fault (List β)
  | [] => .ok []
  | a :: as =>
    match f a with
    | .error e => .error e
    | .ok b =>
      match collect f as with
      | .error e => .error e
      | .ok bs => .ok (b :: bs)

/-- A register step's answer: the next state or the fault. -/
def outcome : Except Fault State → Result
  | .ok s => .next s
  | .error f => .fault f

/-! ### Resync, acknowledgement and error conditions -/

/-- Every transition into SEEK_MAGIC also empties the window (R124). -/
def resync (s : State) : State :=
  { s with rxState := .seekMagic, winCnt := 0 }

/-- `SendAck(bytes)` (R122). -/
def sendAck (bytes : List Byte) (s : State) : State :=
  { s with ackQ := bytes, phase := .ack }

/-- The error conditions E1 to E8 (R230). -/
inductive Condition where
  | badMagic | badLength | badChecksum | transportTimeout | hardwareTimeout | invalidGeometry | badShape | notReady
deriving DecidableEq, Repr

/-- `raise <Error>` (R11): the response R231 to R238 give each condition (R94). The response of E1 is the window shift that R111
itself writes. E6, E7 and E8 change nothing here: they keep the render and the patch from running, and are recorded when the
dispatch ends (R211). -/
def raiseCond : Condition → State → State
  | .badMagic, s => s
  | .badLength, s => resync (sendAck (ackBadlenBytes s.cfg) s)
  | .badChecksum, s => resync (sendAck (ackBadcrcBytes s.cfg) s)
  | .transportTimeout, s => resync { s with fldCnt := 0 }
  | .hardwareTimeout, s => { s with waitFail := true }
  | .invalidGeometry, s => s
  | .badShape, s => s
  | .notReady, s => s

/-- The search expiry of R120: the window is emptied, with no condition and no record. -/
def expireSeek (s : State) : State :=
  { s with winCnt := 0 }

/-! ### Reset -/

/-- `rst` (R260, R261): every state element takes its reset value. The parameters (R8), the environment's own fields and the
model's records of the ports are not the block's state and stay. -/
def applyReset (s : State) : State :=
  { State.resetOf s.cfg with env := s.env, hostQ := s.hostQ, panelOut := s.panelOut, ackOut := s.ackOut }

end Sys2Proof.Machine
end

