-- ==== Sys2Proof/Machine/Geometry.lean ====
section
/-! DEFINITION. The coordinate mapper: per-byte transform, rectangle validation and clamping, the two-controller split,
addressing and plane streams (spec/42_geometry.md R140 to R155). -/

namespace Sys2Proof.Machine

/-! ### Per-byte transform (R140 to R142) -/

/-- `REV8(b)`: bit `i` of the result is bit `7 − i` of `b` (R140). -/
def rev8 (b : Byte) : Byte :=
  (List.range 8).foldl (fun r i => if b.getLsbD (7 - i) then r ||| (1#8 <<< i) else r) 0#8

/-- `INV8(b)` (R141). -/
def inv8 (b : Byte) : Byte := b ^^^ 0xFF#8

/-- `XFORM(b)` (R142). -/
def xform (c : Config) (b : Byte) : Byte :=
  let t := if c.revBits then rev8 b else b
  if c.invert then inv8 t else t

/-! ### Rectangles (R145 to R147) -/

/-- A rectangle in pixels, after clamping. -/
structure Rect where
  x : Nat
  y : Nat
  w : Nat
  h : Nat
deriving DecidableEq, Repr

/-- Byte columns `cx0..cx1` and rows `ry0..ry1`. -/
structure Region where
  cx0 : Nat
  cx1 : Nat
  ry0 : Nat
  ry1 : Nat
deriving DecidableEq, Repr

/-- `VALIDATE(x, y, w, h) = accept` (R145). -/
def validate (c : Config) (x y w h : Half) : Bool :=
  if w.toNat = 0 ∨ h.toNat = 0 then false
  else if c.w ≤ x.toNat ∨ c.h ≤ y.toNat then false
  else if x.toNat % 8 ≠ 0 ∨ w.toNat % 8 ≠ 0 then false
  else true

/-- `CLAMP(x, y, w, h)` (R146). -/
def clamp (c : Config) (x y w h : Half) : Rect :=
  { x := x.toNat, y := y.toNat, w := min w.toNat (c.w - x.toNat), h := min h.toNat (c.h - y.toNat) }

/-- `RECTCOLS` (R147). -/
def rectCols (r : Rect) : Region :=
  { cx0 := r.x / 8, cx1 := (r.x + r.w) / 8 - 1, ry0 := r.y, ry1 := r.y + r.h - 1 }

/-! ### Dual-controller split (R148 to R150) -/

/-- The byte columns a controller owns, first and last (R148). -/
def ctlSpan (c : Config) : Ctl → Nat × Nat
  | .master => (0, c.ovl)
  | .slave => (c.ovl, c.n - 1)

/-- A part of a column range that one controller writes. -/
structure Part where
  ctl : Ctl
  lo : Nat
  hi : Nat
deriving DecidableEq, Repr

/-- `SPLIT(cx0, cx1)`, master first (R149). -/
def splitCols (c : Config) (cx0 cx1 : Nat) : List Part :=
  (if cx0 ≤ c.ovl then [{ ctl := .master, lo := cx0, hi := min cx1 c.ovl }] else []) ++
    (if c.ovl ≤ cx1 then [{ ctl := .slave, lo := max cx0 c.ovl, hi := cx1 }] else [])

/-- `CTLCOL(ctl, g)`: the slave's columns are the mirror of the global ones (R150). -/
def ctlCol (c : Config) : Ctl → Nat → Nat
  | .master, g => g
  | .slave, g => c.so - (g - c.ovl)

/-! ### Addressing (R151, R152) -/

/-- `ADDR(ctl, glo, ghi, rlo, rhi)` (R151): entry mode, column window, row window, column cursor, row cursor; columns
increment from `clo`, rows decrement from `rhi`. -/
def addr (c : Config) (ctl : Ctl) (glo ghi rlo rhi : Nat) : List PanelOp :=
  let clo := match ctl with
    | .master => glo
    | .slave => ctlCol c .slave ghi
  let chi := match ctl with
    | .master => ghi
    | .slave => ctlCol c .slave glo
  [.entry ctl (c.entryData ctl), .colwin ctl clo chi, .rowwin ctl (BitVec.ofNat 16 rhi) (BitVec.ofNat 16 rlo),
    .colcur ctl clo, .rowcur ctl (BitVec.ofNat 16 rhi)]

/-! ### Plane streams (R153 to R155) -/

/-- `idx(r, g) = r × BPR + g` (R61). -/
def idx (c : Config) (r g : Nat) : Nat := r * c.bpr + g

/-- Rows `rhi` down to `rlo`. -/
def rowsDown (rlo rhi : Nat) : List Nat :=
  (List.range (rhi + 1 - rlo)).map fun j => rhi - j

/-- The global columns of `glo..ghi` in ascending order of the controller's columns (R153). -/
def colsUp (ctl : Ctl) (glo ghi : Nat) : List Nat :=
  (List.range (ghi + 1 - glo)).map fun k =>
    match ctl with
    | .master => glo + k
    | .slave => ghi - k

/-- `STREAM(ctl, glo, ghi, rlo, rhi)`: the (row, global column) pairs in the order their bytes are sent (R153). -/
def stream (c : Config) (ctl : Ctl) (glo ghi rlo rhi : Nat) : List (Nat × Nat) :=
  match c.order with
  | .colMajor => (colsUp ctl glo ghi).flatMap fun g => (rowsDown rlo rhi).map fun r => (r, g)
  | .rowMajor => (rowsDown rlo rhi).flatMap fun r => (colsUp ctl glo ghi).map fun g => (r, g)

/-- A byte source indexed from 0: an image, PREV, the white source or a rectangle buffer. -/
abbrev Source := Nat → Except Fault Byte

/-- A sampler: one byte for a row and a global column (R155). -/
abbrev Sampler := Nat → Nat → Except Fault Byte

/-- `IMG(F)` (R155). -/
def imgSampler (c : Config) (f : Source) : Sampler := fun r g => (f (idx c r g)).map (xform c)

/-- `RECT(R, s, cx0, ry0)` (R155). -/
def rectSampler (c : Config) (src : Source) (stride cx0 ry0 : Nat) : Sampler :=
  fun r g => (src ((r - ry0) * stride + (g - cx0))).map (xform c)

/-- `ZERO`, not transformed (R143, R155). -/
def zeroSampler : Sampler := fun _ _ => .ok 0x00#8

/-- `PLANE(ctl, plane, smp, glo, ghi, rlo, rhi)` (R154). -/
def planeOp (c : Config) (ctl : Ctl) (p : Plane) (smp : Sampler) (glo ghi rlo rhi : Nat) : Except Fault PanelOp :=
  (collect (fun rg => smp rg.1 rg.2) (stream c ctl glo ghi rlo rhi)).map fun bytes => .plane ctl p bytes

end Sys2Proof.Machine
end

