-- ==== Sys2Proof/Machine/Operands.lean ====
section
/-! DEFINITION. The operands of a frame: payload bytes, the header the decode reads, and the byte sources of the
samplers (spec/20_memory.md R61 to R64, spec/44_orchestrator.md R200 to R203), and the accepted lengths (R115). -/

namespace Sys2Proof.Machine

/-- `ACCEPT(L)` (R115). -/
def acceptLen (c : Config) (len : Nat) : Bool :=
  decide (len = c.fb) || decide (len = c.fb + 1) || (decide (9 ≤ len) && decide (len ≤ c.fb + 9))

/-- `P[i]`, payload byte `i` of the frame in dispatch: RXBUF is read only below `frm_len` (R63), only inside the memory
(R71), and only where a byte was written (R36, I1). -/
def payloadByte (s : State) (i : Nat) : Except Fault Byte :=
  if i < s.frmLen.toNat ∧ i < s.cfg.maxlen then
    match s.rxByte i with
    | some b => .ok b
    | none => .error .rxbufUnwritten
  else .error .rxbufIndex

/-- `IMGSRC` with the image at payload offset `off`: `P[off + i]` for `i` in `0..FB−1` (R64, R201, R202). -/
def imageSource (s : State) (off : Nat) : Source := fun i =>
  if i < s.cfg.fb then payloadByte s (off + i) else .error .imageIndex

/-- `RSRC(i) = P[9 + i]` (R64, R203). -/
def rectSource (s : State) : Source := fun i => payloadByte s (9 + i)

/-- The contents of a PREV memory as a source (R37, R61). -/
def prevSource (c : Config) (m : Mem) : Source := fun i =>
  if i < c.fb then
    match Mem.read (some c.white) m i with
    | some b => .ok b
    | none => .error .imageIndex
  else .error .imageIndex

/-- The constant all-white source (R38). -/
def whiteSource (c : Config) : Source := fun i =>
  if i < c.fb then .ok c.white else .error .imageIndex

/-- The payload bytes the decode looks at: none of a legacy frame's (R201), the flags byte of a full frame (R202), the flags
byte and the geometry fields of a rectangle (R203). -/
def payloadHeader (s : State) : Except Fault (List Byte) :=
  if s.frmLen.toNat = s.cfg.fb then .ok []
  else
    match payloadByte s 0 with
    | .error f => .error f
    | .ok flags => if flagRect flags then collect (payloadByte s) (List.range 9) else .ok [flags]

/-- The decode of the frame in dispatch (R200), by the decoder of Decode.lean. -/
def decodeFrame (s : State) : Except Fault Instr :=
  match payloadHeader s with
  | .error f => .error f
  | .ok header =>
    match decode s.cfg (.payload s.frmLen header) with
    | .ok i => .ok i
    | .error _ => .error .payloadHeader

end Sys2Proof.Machine
end

