-- ==== Sys2Proof/Machine/Flags.lean ====
section
/-! DEFINITION. Flags, results and status codes. The block has no condition codes (spec/10_state.md R35): its flag bits
are the two frame flags, `wait_fail`, and the result of a dispatch (spec/44_orchestrator.md R211). -/

namespace Sys2Proof.Machine

/-- `force_full` of the frame in dispatch (R35). -/
def State.forceFull (s : State) : Bool := flagForce s.fFlags

/-- `is_rect` of the frame in dispatch (R35). -/
def State.isRect (s : State) : Bool := flagRect s.fFlags

/-- `InvalidGeometry` is raised for the frame in dispatch: a rectangle that VALIDATE rejects (R208, R209, R236). -/
def State.geometryInvalid (s : State) : Bool :=
  decide (s.fShape = .rect) && !validate s.cfg s.fX s.fY s.fW s.fH

/-- The result of a dispatch: the first of NOT_READY, REJECTED, HW_TIMEOUT and OK that holds (R211, R239). -/
def State.result (s : State) : LastResult :=
  if !s.ready then .notReady
  else if decide (s.fShape = .badshape) || s.geometryInvalid then .rejected
  else if s.waitFail then .hwTimeout
  else .ok

/-- The code of `rx_state` (R22). -/
def RxState.code : RxState → BitVec 2
  | .seekMagic => 0
  | .readLength => 1
  | .readPayload => 2
  | .readCrc => 3

/-- The code of `phase` (R28). -/
def Phase.code : Phase → BitVec 2
  | .bringup => 0
  | .receive => 1
  | .dispatch => 2
  | .ack => 3

/-- The code of `last_result` (R30). -/
def LastResult.code : LastResult → BitVec 3
  | .none => 0
  | .ok => 1
  | .rejected => 2
  | .hwTimeout => 3
  | .notReady => 4

/-- The code of `f_shape` (R33). -/
def FShape.code : FShape → BitVec 2
  | .legacy => 0
  | .full => 1
  | .rect => 2
  | .badshape => 3

end Sys2Proof.Machine
end

