-- ==== Sys2Proof/Machine/Ack.lean ====
section
/-! DEFINITION. Acknowledgements (spec/30_encoding.md R87, spec/41_frame_receiver.md R115, R119, R122, R123,
spec/44_orchestrator.md R212). -/

namespace Sys2Proof.Machine

/-- `ACK_OK` (R212): `SendAck(4F 4B)`. -/
def execAckOk (s : State) : Result := .next (sendAck ackOkBytes s)

/-- `ACK_BADLEN`: the response to BadLength (R115, R232). -/
def execAckBadlen (s : State) : Result := .next (raiseCond .badLength s)

/-- `ACK_BADCRC`: the response to BadChecksum (R119, R233). -/
def execAckBadcrc (s : State) : Result := .next (raiseCond .badChecksum s)

/-- The transfer of one acknowledgement byte (R123): the head of `ack_q` leaves, and with the last one the block returns to
RECEIVE. With nothing to send there is no transfer (`tx_valid = 0`, R42). -/
def ackTransfer (s : State) : State :=
  match s.ackQ with
  | [] => s
  | b :: rest =>
    { s with ackQ := rest, ackOut := b :: s.ackOut, phase := if rest = [] then .receive else s.phase }

end Sys2Proof.Machine
end

