-- ==== Sys2Proof/Machine/Refresh.lean ====
section
/-! DEFINITION. The refresh procedures as the panel operations they append (spec/43_refresh.md R171 to R178), the patch
of PREV (spec/44_orchestrator.md R210), and the busy-wait (R170). -/

namespace Sys2Proof.Machine

/-! ### Busy-wait (R170) -/

/-- The bound of a `WAIT` in time units (R7). -/
def WaitBound.time (t : Timing) : WaitBound → Nat
  | .init => t.busyInit
  | .full => t.busyFull
  | .part => t.busyPart

/-- The sampling loop of `WaitIdle(t)` (R170), over the samples of `pnl_busy` it takes: the result, or `none` while it has
not ended. `elapsed` is the time since the first sample. The step uses its two outcomes as the events `BUSY_IDLE` and
`BUSY_TIMEOUT` (R241). -/
def waitIdle (t poll : Nat) : Nat → List Bool → Option Bool
  | _, [] => none
  | elapsed, busy :: rest =>
    if !busy then some true
    else if t ≤ elapsed then some false
    else waitIdle t poll (elapsed + poll) rest

/-! ### Triggers (R90, R175) -/

/-- The bound of the wait after a trigger (R175). -/
def trigBound : TrigKind → WaitBound
  | .full => .full
  | .part => .part

/-- The data byte of `OP_UPDATE` in a trigger (R90). -/
def trigData (c : Config) : TrigKind → Byte
  | .full => c.updFull
  | .part => c.updPart

/-- The command byte of a one-byte trigger (R90, I7). -/
def trigSingle (full part : Byte) : TrigKind → Byte
  | .full => full
  | .part => part

/-- The triggers after one controller's planes: one with `TRIG_MODE = PER_CTL`, none with `ONCE` (R174, R176). -/
def trigPerCtl (c : Config) (k : TrigKind) : List PanelOp :=
  match c.trigMode with
  | .once => []
  | .perCtl => [.trig k]

/-- The trigger after the planes of every controller: one with `TRIG_MODE = ONCE` (R174, R176). -/
def trigOnce (c : Config) (k : TrigKind) : List PanelOp :=
  match c.trigMode with
  | .once => [.trig k]
  | .perCtl => []

/-! ### Refresh procedures (R174, R176 to R178) -/

/-- One controller's share of a refresh: the addressing, both planes and, with `PER_CTL`, the trigger. -/
def ctlRefresh (c : Config) (k : TrigKind) (ctl : Ctl) (new old : Sampler) (glo ghi rlo rhi : Nat) :
    Except Fault (List PanelOp) :=
  match planeOp c ctl .new new glo ghi rlo rhi with
  | .error f => .error f
  | .ok newOp =>
    match planeOp c ctl .old old glo ghi rlo rhi with
    | .error f => .error f
    | .ok oldOp => .ok (addr c ctl glo ghi rlo rhi ++ [newOp, oldOp] ++ trigPerCtl c k)

/-- `FULL(F)` (R174). -/
def fullRefresh (c : Config) (f : Source) : Except Fault (List PanelOp) :=
  match collect
      (fun ctl => ctlRefresh c .full ctl (imgSampler c f) zeroSampler (ctlSpan c ctl).1 (ctlSpan c ctl).2 0 (c.h - 1))
      [Ctl.master, Ctl.slave] with
  | .error e => .error e
  | .ok parts => .ok (parts.flatten ++ trigOnce c .full)

/-- `PARTIAL(x, y, w', h', R, s)` (R176); `old` is PREV as it stands. -/
def partialRefresh (c : Config) (r : Rect) (src : Source) (stride : Nat) (old : Source) :
    Except Fault (List PanelOp) :=
  let g := rectCols r
  match collect
      (fun (p : Part) =>
        ctlRefresh c .part p.ctl (rectSampler c src stride g.cx0 g.ry0) (imgSampler c old) p.lo p.hi g.ry0 g.ry1)
      (splitCols c g.cx0 g.cx1) with
  | .error e => .error e
  | .ok parts => .ok (parts.flatten ++ trigOnce c .part)

/-- `FFP(F)`: the partial refresh of the whole panel (R96, R177). -/
def fullFramePartial (c : Config) (f old : Source) : Except Fault (List PanelOp) :=
  partialRefresh c { x := 0, y := 0, w := c.w, h := c.h } f c.bpr old

/-- `CLEAR()`: the full refresh of the white source (R178). -/
def clearWhite (c : Config) : Except Fault (List PanelOp) := fullRefresh c (whiteSource c)

/-! ### PREV (R206, R207, R210) -/

/-- The (row, column) pairs of a region. -/
def regionPairs (g : Region) : List (Nat × Nat) :=
  (List.range (g.ry1 + 1 - g.ry0)).flatMap fun j =>
    (List.range (g.cx1 + 1 - g.cx0)).map fun k => (g.ry0 + j, g.cx0 + k)

/-- `PATCH(x, y, w', h', R, s)` (R210): PREV with the rectangle written into it, untransformed. -/
def patchPrev (c : Config) (r : Rect) (src : Source) (stride : Nat) (m : Mem) : Except Fault Mem :=
  let g := rectCols r
  match collect
      (fun (rg : Nat × Nat) =>
        (src ((rg.1 - g.ry0) * stride + (rg.2 - g.cx0))).map fun b => (idx c rg.1 rg.2, b))
      (regionPairs g) with
  | .error e => .error e
  | .ok cells => writePrev c m cells

/-- `for i in 0 .. FB−1: MemWrite(PREV, i, 1, F(i))` (R206, R207). -/
def storeImage (c : Config) (f : Source) (m : Mem) : Except Fault Mem :=
  match collect (fun i => (f i).map fun b => (i, b)) (List.range c.fb) with
  | .error e => .error e
  | .ok cells => writePrev c m cells

/-! ### End of bring-up (R172, R173) -/

/-- `phase <- RECEIVE`, with the record of a failed cold-start clear. -/
def enterReceive (s : State) : State :=
  { s with
    lastResult := if s.buStage && s.waitFail then .hwTimeout else s.lastResult
    phase := .receive }

/-- R173: in BRINGUP with `pq` drained. After the initialisation sequence, readiness and the cold-start clear; after the
clear, or without it, the receive phase. -/
def bringupEnd (s : State) : Except Fault State :=
  if s.buStage then .ok (enterReceive s)
  else
    let s1 := { s with ready := !s.waitFail }
    if s1.ready && s1.cfg.coldClear then
      match clearWhite s1.cfg with
      | .error f => .error f
      | .ok ops => .ok { s1 with buStage := true, waitFail := false, pq := ops }
    else .ok (enterReceive s1)

end Sys2Proof.Machine
end

