-- ==== Sys2Proof/Machine/Orchestrator.lean ====
section
/-! DEFINITION. The update orchestrator (spec/44_orchestrator.md): the dispatch of a decoded frame (R213), its four
actions (R206 to R210), and the meanings of the `FRM_*` rows and of `BADSHAPE`. The whole operation sequence and the final
PREV of an action are computed when the dispatch begins, each byte sampled from the PREV the program order gives at that
point, as R213 allows (log 11). -/

namespace Sys2Proof.Machine

/-- What an action does: the panel operations it appends and the PREV it leaves. -/
abbrev Action := State → Except Fault (List PanelOp × Mem)

/-- A render and then a store into PREV, neither depending on the other's outcome. -/
def renderThen (ops : Except Fault (List PanelOp)) (mem : Except Fault Mem) : Except Fault (List PanelOp × Mem) :=
  match ops with
  | .error f => .error f
  | .ok o =>
    match mem with
    | .error f => .error f
    | .ok m => .ok (o, m)

/-- `CLEAR(); FULL(F)`: two full refreshes, each with its trigger and wait (R207, R209, D41). -/
def clearThenFull (c : Config) (f : Source) : Except Fault (List PanelOp) :=
  match clearWhite c with
  | .error e => .error e
  | .ok a =>
    match fullRefresh c f with
    | .error e => .error e
    | .ok b => .ok (a ++ b)

/-- R206, with the image at payload offset `off`: `FFP(IMGSRC)`, whose OLD plane samples PREV before it is overwritten,
and then PREV takes the image. -/
def actPartialFrame (off : Nat) : Action := fun s =>
  renderThen (fullFramePartial s.cfg (imageSource s off) (prevSource s.cfg s.prev))
    (storeImage s.cfg (imageSource s off) s.prev)

/-- R207: clear to white, full refresh of the image, PREV takes the image. -/
def actForceFrame : Action := fun s =>
  renderThen (clearThenFull s.cfg (imageSource s 1)) (storeImage s.cfg (imageSource s 1) s.prev)

/-- R208: a rectangle that VALIDATE rejects does nothing (E6); else the clamped rectangle is refreshed against PREV and then
patched into it. -/
def actPartialRect (x y w h : Half) : Action := fun s =>
  if validate s.cfg x y w h then
    let r := clamp s.cfg x y w h
    renderThen (partialRefresh s.cfg r (rectSource s) (w.toNat / 8) (prevSource s.cfg s.prev))
      (patchPrev s.cfg r (rectSource s) (w.toNat / 8) s.prev)
  else .ok ([], s.prev)

/-- R209: the rectangle is patched into PREV first, unless VALIDATE rejects it (E6); then, in both cases, clear and full
refresh of PREV. -/
def actForceRect (x y w h : Half) : Action := fun s =>
  match
    (if validate s.cfg x y w h then
      patchPrev s.cfg (clamp s.cfg x y w h) (rectSource s) (w.toNat / 8) s.prev
    else .ok s.prev) with
  | .error f => .error f
  | .ok m => renderThen (clearThenFull s.cfg (prevSource s.cfg m)) (.ok m)

/-- The action of a dispatch, behind the readiness gate (R205, R213): while not ready, nothing is appended and PREV is not
written (E8). -/
def runAction (act : Action) (s : State) : Result :=
  if s.ready then
    match act s with
    | .error f => .fault f
    | .ok (ops, m) => .next { s with pq := s.pq ++ ops, prev := m }
  else .next (raiseCond .notReady s)

/-- The decode's register writes for a frame without geometry (R201, R202), at the start of a dispatch (R213): `wait_fail`
is cleared; `f_x` to `f_h` are not written. -/
def beginFrame (shape : FShape) (flags : Byte) (s : State) : State :=
  { s with waitFail := false, fShape := shape, fFlags := flags, draining := true }

/-- The decode's register writes for a frame with geometry (R203). -/
def beginRect (shape : FShape) (flags : Byte) (x y w h : Half) (s : State) : State :=
  { beginFrame shape flags s with fX := x, fY := y, fW := w, fH := h }

/-- The end of a dispatch whose operations have all been performed: `last_result` is written (R211, R213). The
acknowledgement follows (R212). -/
def endDispatch (s : State) : State :=
  { s with lastResult := s.result, draining := false }

/-! ### Meanings -/

/-- `FRM_LEGACY` (R201, R206). -/
def execFrmLegacy (s : State) : Result := runAction (actPartialFrame 0) (beginFrame .legacy 0x00#8 s)

/-- `FRM_FULL_PARTIAL` (R202, R206). -/
def execFrmFullPartial (flags : Byte) (s : State) : Result :=
  runAction (actPartialFrame 1) (beginFrame .full flags s)

/-- `FRM_FULL_FORCE` (R202, R207). -/
def execFrmFullForce (flags : Byte) (s : State) : Result :=
  runAction actForceFrame (beginFrame .full flags s)

/-- `FRM_RECT_PARTIAL` (R203, R208). -/
def execFrmRectPartial (flags : Byte) (x y w h : Half) (s : State) : Result :=
  runAction (actPartialRect x y w h) (beginRect .rect flags x y w h s)

/-- `FRM_RECT_FORCE` (R203, R209). -/
def execFrmRectForce (flags : Byte) (x y w h : Half) (s : State) : Result :=
  runAction (actForceRect x y w h) (beginRect .rect flags x y w h s)

/-- `BADSHAPE` (R202, R203, R204): the descriptor is written, nothing is rendered, PREV is not written (E7). -/
def execBadshape (hdr : BadHeader) (s : State) : Result :=
  match hdr with
  | .full flags => .next (raiseCond .badShape (beginFrame .badshape flags s))
  | .rect flags x y w h => .next (raiseCond .badShape (beginRect .badshape flags x y w h s))

end Sys2Proof.Machine
end

