-- ==== Sys2Proof/Machine/Panel.lean ====
section
/-! DEFINITION. The panel operation step (spec/43_refresh.md R185): command and data transfers, the reset pulse, the wait
and the triggers, and the meanings of the `OP_*`, `TRIG_*`, `RST` and `WAIT` rows. -/

namespace Sys2Proof.Machine

/-! ### Port operations -/

/-- A command transfer (`pnl_dc = 0`, R43, R185); its data bytes are the next transfers (R88). -/
def sendCommand (o : Opcode) (data : List Byte) (s : State) : State :=
  { s with panelOut := .cmd (s.cfg.opcodes.byte o) :: s.panelOut, dq := data ++ s.dq }

/-- The transfer of the next data byte (`pnl_dc = 1`, R43, R185). -/
def sendData (s : State) : State :=
  match s.dq with
  | [] => s
  | b :: rest => { s with panelOut := .data b :: s.panelOut, dq := rest }

/-- `RST(T_RST_PULSE)`: `pnl_rst_n` driven low and then high, in one step of the model (R185, R241). -/
def resetPulse (s : State) : State :=
  { s with panelOut := .rst :: s.panelOut }

/-- `WAIT(t)` ended by `BUSY_IDLE` (`idle`) or `BUSY_TIMEOUT` (R170, R241); a failed wait raises HardwareTimeout (R235) and
the sequence goes on (R179, R270). -/
def endWait (t : WaitBound) (idle : Bool) (s : State) : State :=
  let s1 := { s with panelOut := .wait t :: s.panelOut }
  if idle then s1 else raiseCond .hardwareTimeout s1

/-- `TRIGGER(kind)` (R175) at its place in the sequence: `TRIG(kind)` and then the wait come next. The one-byte form (R90)
sends its byte now. -/
def trigger (k : TrigKind) (s : State) : State :=
  match s.cfg.trigForm with
  | .split => { s with pq := [.update (trigData s.cfg k), .activate, .wait (trigBound k)] ++ s.pq }
  | .single f p => { s with panelOut := .cmd (trigSingle f p k) :: s.panelOut, pq := .wait (trigBound k) :: s.pq }

/-! ### The queue -/

/-- The instruction a queue item stands for; `idle` is the result of a wait. -/
def PanelOp.instr (idle : Bool) : PanelOp → Instr
  | .swreset => .opSwreset
  | .entry .master d => .opEntryM d
  | .entry .slave d => .opEntryS d
  | .colwin .master s e => .opColwinM s e
  | .colwin .slave s e => .opColwinS s e
  | .rowwin .master s e => .opRowwinM s e
  | .rowwin .slave s e => .opRowwinS s e
  | .colcur .master c => .opColcurM c
  | .colcur .slave c => .opColcurS c
  | .rowcur .master r => .opRowcurM r
  | .rowcur .slave r => .opRowcurS r
  | .plane .master .new bytes => .opNewM bytes
  | .plane .slave .new bytes => .opNewS bytes
  | .plane .master .old bytes => .opOldM bytes
  | .plane .slave .old bytes => .opOldS bytes
  | .border d => .opBorder d
  | .tempsrc d => .opTempsrc d
  | .update d => .opUpdate d
  | .activate => .opActivate
  | .trig .full => .trigFull
  | .trig .part => .trigPart
  | .rst => .rst
  | .wait t => .wait t idle

/-- The command byte an item transfers when it is performed, if it transfers one. -/
def PanelOp.commandByte (c : Config) : PanelOp → Option Byte
  | .swreset => some (c.opcodes.byte .swreset)
  | .entry ctl _ => some (c.opcodes.byte (.entry ctl))
  | .colwin ctl _ _ => some (c.opcodes.byte (.colwin ctl))
  | .rowwin ctl _ _ => some (c.opcodes.byte (.rowwin ctl))
  | .colcur ctl _ => some (c.opcodes.byte (.colcur ctl))
  | .rowcur ctl _ => some (c.opcodes.byte (.rowcur ctl))
  | .plane ctl p _ => some (c.opcodes.byte (.plane ctl p))
  | .border _ => some (c.opcodes.byte .border)
  | .tempsrc _ => some (c.opcodes.byte .tempsrc)
  | .update _ => some (c.opcodes.byte .update)
  | .activate => some (c.opcodes.byte .activate)
  | .trig k =>
    match c.trigForm with
    | .split => none
    | .single f p => some (trigSingle f p k)
  | .rst => none
  | .wait _ => none

/-- The data bytes of an item (R88, R152). -/
def PanelOp.dataBytes (t : Encodings) : PanelOp → List Byte
  | .entry _ d => [d]
  | .colwin _ s e => encColwin t s e
  | .rowwin _ s e => encRowwin t s e
  | .colcur _ col => encColcur t col
  | .rowcur _ r => encRowcur t r
  | .plane _ _ bytes => bytes
  | .border d => [d]
  | .tempsrc d => [d]
  | .update d => [d]
  | .swreset => []
  | .activate => []
  | .trig _ => []
  | .rst => []
  | .wait _ => []

/-- The panel operations (R12) an item stands for, in order. -/
def PanelOp.portOps (c : Config) : PanelOp → List PortOp
  | .trig k => trigPortOps c k ++ [.wait (trigBound k)]
  | .rst => [.rst]
  | .wait t => [.wait t]
  | op => ((op.commandByte c).toList.map .cmd) ++ (op.dataBytes c.encs).map .data

/-- `pq` as R34 has it: the panel operations not yet performed, in order. -/
def State.pending (s : State) : List PortOp :=
  s.dq.map .data ++ s.pq.flatMap (PanelOp.portOps s.cfg)

/-! ### Meanings -/

/-- `OP_SWRESET` (R88, R171). -/
def execOpSwreset (s : State) : Result := .next (sendCommand .swreset [] s)

/-- `OP_ENTRY_M` (R151). -/
def execOpEntryM (d : Byte) (s : State) : Result := .next (sendCommand (.entry .master) [d] s)

/-- `OP_ENTRY_S` (R151). -/
def execOpEntryS (d : Byte) (s : State) : Result := .next (sendCommand (.entry .slave) [d] s)

/-- `OP_COLWIN_M` with `ENC_COLWIN` (R152). -/
def execOpColwinM (start stop : Nat) (s : State) : Result :=
  .next (sendCommand (.colwin .master) (encColwin s.cfg.encs start stop) s)

/-- `OP_COLWIN_S` with `ENC_COLWIN` (R152). -/
def execOpColwinS (start stop : Nat) (s : State) : Result :=
  .next (sendCommand (.colwin .slave) (encColwin s.cfg.encs start stop) s)

/-- `OP_ROWWIN_M` with `ENC_ROWWIN` (R152). -/
def execOpRowwinM (start stop : Half) (s : State) : Result :=
  .next (sendCommand (.rowwin .master) (encRowwin s.cfg.encs start stop) s)

/-- `OP_ROWWIN_S` with `ENC_ROWWIN` (R152). -/
def execOpRowwinS (start stop : Half) (s : State) : Result :=
  .next (sendCommand (.rowwin .slave) (encRowwin s.cfg.encs start stop) s)

/-- `OP_COLCUR_M` with `ENC_COLCUR` (R152). -/
def execOpColcurM (col : Nat) (s : State) : Result :=
  .next (sendCommand (.colcur .master) (encColcur s.cfg.encs col) s)

/-- `OP_COLCUR_S` with `ENC_COLCUR` (R152). -/
def execOpColcurS (col : Nat) (s : State) : Result :=
  .next (sendCommand (.colcur .slave) (encColcur s.cfg.encs col) s)

/-- `OP_ROWCUR_M` with `ENC_ROWCUR` (R152). -/
def execOpRowcurM (row : Half) (s : State) : Result :=
  .next (sendCommand (.rowcur .master) (encRowcur s.cfg.encs row) s)

/-- `OP_ROWCUR_S` with `ENC_ROWCUR` (R152). -/
def execOpRowcurS (row : Half) (s : State) : Result :=
  .next (sendCommand (.rowcur .slave) (encRowcur s.cfg.encs row) s)

/-- `OP_NEW_M` with its plane stream (R154). -/
def execOpNewM (bytes : List Byte) (s : State) : Result := .next (sendCommand (.plane .master .new) bytes s)

/-- `OP_NEW_S` with its plane stream (R154). -/
def execOpNewS (bytes : List Byte) (s : State) : Result := .next (sendCommand (.plane .slave .new) bytes s)

/-- `OP_OLD_M` with its plane stream (R154). -/
def execOpOldM (bytes : List Byte) (s : State) : Result := .next (sendCommand (.plane .master .old) bytes s)

/-- `OP_OLD_S` with its plane stream (R154). -/
def execOpOldS (bytes : List Byte) (s : State) : Result := .next (sendCommand (.plane .slave .old) bytes s)

/-- `OP_BORDER` (R171). -/
def execOpBorder (d : Byte) (s : State) : Result := .next (sendCommand .border [d] s)

/-- `OP_TEMPSRC` (R171). -/
def execOpTempsrc (d : Byte) (s : State) : Result := .next (sendCommand .tempsrc [d] s)

/-- `OP_UPDATE` (R90). -/
def execOpUpdate (d : Byte) (s : State) : Result := .next (sendCommand .update [d] s)

/-- `OP_ACTIVATE` (R90). -/
def execOpActivate (s : State) : Result := .next (sendCommand .activate [] s)

/-- `TRIG_FULL` (R175). -/
def execTrigFull (s : State) : Result := .next (trigger .full s)

/-- `TRIG_PART` (R175). -/
def execTrigPart (s : State) : Result := .next (trigger .part s)

/-- `RST` (R185). -/
def execRst (s : State) : Result := .next (resetPulse s)

/-- `WAIT` (R170). -/
def execWait (t : WaitBound) (idle : Bool) (s : State) : Result := .next (endWait t idle s)

end Sys2Proof.Machine
end

