-- ==== Sys2Proof/Machine/Checksum.lean ====
section
/-! DEFINITION. The CRC32 streamer (spec/40_checksum.md R100 to R103). -/

namespace Sys2Proof.Machine

/-- `POLY` (R7, R101). -/
def crcPoly : Word := 0xEDB88320#32

/-- `CRC_INIT` (R100). -/
def crcInit : Word := 0xFFFFFFFF#32

/-- One shift of R101's loop. -/
def crcShift (t : Word) : Word :=
  if t.getLsbD 0 then (t >>> 1) ^^^ crcPoly else t >>> 1

/-- `n` shifts. -/
def crcShifts : Nat → Word → Word
  | 0, t => t
  | n + 1, t => crcShifts n (crcShift t)

/-- `CRC_UPDATE(s, b)` (R101). -/
def crcUpdate (s : Word) (b : Byte) : Word :=
  crcShifts 8 (s ^^^ b.zeroExtend 32)

/-- `CRC_FINAL(s)` (R102). -/
def crcFinal (s : Word) : Word := s ^^^ 0xFFFFFFFF#32

/-- A running CRC folded over bytes (R104). -/
def crcFold (s : Word) : List Byte → Word
  | [] => s
  | b :: bs => crcFold (crcUpdate s b) bs

/-- `CRC32(bytes)`, the bulk compute (R103). -/
def crc32 (bytes : List Byte) : Word := crcFinal (crcFold crcInit bytes)

end Sys2Proof.Machine
end

