-- ==== Sys2Proof/Machine/Receiver.lean ====
section
/-! DEFINITION. The frame receiver: the byte rules (spec/41_frame_receiver.md R111 to R121) as operations, and the
meanings of the `RX_*` rows and of `MWF1_FRAME` over them. -/

namespace Sys2Proof.Machine

/-! ### The byte rules -/

/-- `RX_SEEK(b)` (R111). The window holds `win[0..win_cnt−1]`; with the fourth byte it is compared with MAGIC, and a
mismatch drops the oldest byte (E1, R231). A count above 3 is excluded by R23. -/
def seekByte (b : Byte) (s : State) : Except Fault State :=
  if s.winCnt = 0 then .ok { s with win0 := b, winCnt := 1 }
  else if s.winCnt = 1 then .ok { s with win1 := b, winCnt := 2 }
  else if s.winCnt = 2 then .ok { s with win2 := b, winCnt := 3 }
  else if s.winCnt = 3 then
    if [s.win0, s.win1, s.win2, b] = magic then
      .ok { s with winCnt := 0, fldAcc := 0, fldCnt := 0, rxState := .readLength }
    else .ok (raiseCond .badMagic { s with win0 := s.win1, win1 := s.win2, win2 := b, winCnt := 3 })
  else .error .windowCount

/-- One of the first three bytes of a little-endian field (R113, R117). -/
def fieldByte (b : Byte) (s : State) : State :=
  { s with fldAcc := s.fldAcc ||| (b.zeroExtend 32 <<< (8 * s.fldCnt.toNat)), fldCnt := s.fldCnt + 1 }

/-- The value of a field with its last byte (R114, R118). -/
def fieldLast (b : Byte) (s : State) : Word :=
  s.fldAcc ||| (b.zeroExtend 32 <<< 24)

/-- `RX_LEN(b)` with `fld_cnt = 3` (R114): the length policy of R115. -/
def lenLastByte (b : Byte) (s : State) : State :=
  let len := fieldLast b s
  let s1 := { s with fldCnt := 0 }
  if acceptLen s.cfg len.toNat then
    { s1 with frmLen := len, payCnt := 0, crc := crcInit, rxState := .readPayload }
  else raiseCond .badLength s1

/-- `RX_PAY(b)` (R116). -/
def payByte (b : Byte) (s : State) : Except Fault State :=
  match writeRxbuf s s.payCnt b with
  | .error f => .error f
  | .ok s1 =>
    let s2 := { s1 with crc := crcUpdate s.crc b, payCnt := s.payCnt + 1 }
    if s.payCnt + 1 = s.frmLen.toNat then
      .ok { s2 with fldAcc := 0, fldCnt := 0, rxState := .readCrc }
    else .ok s2

/-- Frame emission (R121): the dispatch of R213 runs next. -/
def emitFrame (s : State) : State :=
  resync { s with phase := .dispatch, draining := false }

/-- `RX_CRC(b)` with `fld_cnt = 3` (R118): the frame is emitted or its checksum refused. -/
def crcLastByte (b : Byte) (s : State) : State :=
  let s1 := { s with fldCnt := 0 }
  if fieldLast b s = crcFinal s.crc then emitFrame s1 else raiseCond .badChecksum s1

/-- One host byte by the event decode of R91. -/
def receiveByte (b : Byte) (s : State) : Except Fault State :=
  match s.rxState with
  | .seekMagic => seekByte b s
  | .readLength => if s.fldCnt = 3 then .ok (lenLastByte b s) else .ok (fieldByte b s)
  | .readPayload => payByte b s
  | .readCrc => if s.fldCnt = 3 then .ok (crcLastByte b s) else .ok (fieldByte b s)

/-- Host bytes taken one by one while the receiver takes them (R110). Once it does not (`rx_ready = 0`, R41), the rest
stay upstream, in order. -/
def receiveBytes : List Byte → State → Except Fault State
  | [], s => .ok s
  | b :: bs, s =>
    if s.phase = .receive then
      match receiveByte b s with
      | .error f => .error f
      | .ok s1 => receiveBytes bs s1
    else .ok { s with hostQ := (b :: bs) ++ s.hostQ }

/-! ### Meanings -/

/-- `MWF1_FRAME` (R81): the bytes of a whole wire frame, taken one by one by the byte rules (R110). -/
def execMwf1Frame (len : Word) (payload : List Byte) (crc : Word) (s : State) : Result :=
  outcome (receiveBytes (wireBytes len payload crc) s)

/-- `RX_SEEK` (R111). -/
def execRxSeek (b : Byte) (s : State) : Result := outcome (seekByte b s)

/-- `RX_LEN` (R113). -/
def execRxLen (b : Byte) (s : State) : Result := .next (fieldByte b s)

/-- `RX_LEN_LAST` (R114, R115). -/
def execRxLenLast (b : Byte) (s : State) : Result := .next (lenLastByte b s)

/-- `RX_PAY` (R116). -/
def execRxPay (b : Byte) (s : State) : Result := outcome (payByte b s)

/-- `RX_CRC` (R117). -/
def execRxCrc (b : Byte) (s : State) : Result := .next (fieldByte b s)

/-- `RX_CRC_LAST` (R118, R119, R121). -/
def execRxCrcLast (b : Byte) (s : State) : Result := .next (crcLastByte b s)

end Sys2Proof.Machine
end

