-- ==== Sys2Proof/Machine/Fetch.lean ====
section
/-! DEFINITION. What the sequencer does next (spec/10_state.md R21, R28): the instruction that is due, taken from where it
waits (the host's bytes, the frame in RXBUF, the panel queue), or a step that is no instruction of the table. And where a
word of the table is put so that it is due (log 17). -/

namespace Sys2Proof.Machine

/-- What is due in a state. -/
inductive Due where
  /-- an instruction, and the state with the instruction taken from where it waited -/
  | instr (i : Instr) (s : State)
  /-- a step that is no instruction: a data byte, an acknowledgement byte, an expiry, the end of bring-up, reset, or
  waiting for the environment -/
  | quiet (s : State)
  /-- the decode of a frame, or the end of bring-up, met an access R71 or I1 excludes -/
  | fault (f : Fault)
deriving DecidableEq, Repr

/-- The event word of a host byte (R91). -/
def State.eventInstr (s : State) (b : Byte) : Instr :=
  decodeEvent s.fldCnt (eventWord s.rxState.code b)

/-- RECEIVE (R110, R120, R240): a byte transfer wins over an expiry at the same edge; an expiry acts only where R241
enables it. -/
def dueReceive (e : Edge) (s : State) : Due :=
  match e.rxValid, s.hostQ with
  | true, b :: rest => .instr (s.eventInstr b) { s with hostQ := rest }
  | _, _ =>
    if e.expireField && decide (s.rxState ≠ .seekMagic) then .quiet (raiseCond .transportTimeout s)
    else if e.expireSeek && decide (s.rxState = .seekMagic) && decide (s.winCnt ≠ 0) then .quiet (expireSeek s)
    else .quiet s

/-- The head `op` of the panel queue, with `ops` behind it (R185). A transfer waits for `pnl_ready` (R43). In a wait an idle
sample wins over the bound (R240); with neither, the wait goes on. -/
def dueOp (e : Edge) (op : PanelOp) (ops : List PanelOp) (s : State) : Due :=
  match op with
  | .wait t =>
    if e.busyIdle then .instr (.wait t true) { s with pq := ops }
    else if e.busyTimeout then .instr (.wait t false) { s with pq := ops }
    else .quiet s
  | op =>
    if (op.commandByte s.cfg).isSome && !e.pnlReady then .quiet s
    else .instr (op.instr true) { s with pq := ops }

/-- The next panel operation (R185): the data bytes of the command last sent come first (R88). `done` is what follows when
the queue has drained. -/
def dueDrain (e : Edge) (s : State) (done : Due) : Due :=
  match s.dq, s.pq with
  | _ :: _, _ => if e.pnlReady then .quiet (sendData s) else .quiet s
  | [], op :: ops => dueOp e op ops s
  | [], [] => done

/-- The end of bring-up (R173). -/
def dueBringupEnd (s : State) : Due :=
  match bringupEnd s with
  | .error f => .fault f
  | .ok s1 => .quiet s1

/-- The decode of an emitted frame (R200, R213). -/
def dueFrame (s : State) : Due :=
  match decodeFrame s with
  | .error f => .fault f
  | .ok i => .instr i s

/-- What is due in a state, under the inputs of this edge with `rst = 0` (R21, R28). -/
def duePhase (e : Edge) (s : State) : Due :=
  match s.phase with
  | .bringup => dueDrain e s (dueBringupEnd s)
  | .receive => dueReceive e s
  | .dispatch => if s.draining then dueDrain e s (.instr .ackOk (endDispatch s)) else dueFrame s
  | .ack => if e.txReady then .quiet (ackTransfer s) else .quiet s

/-- The inputs of this step. -/
def State.edge (s : State) : Edge := s.env.headD Edge.calm

/-- The state with the inputs of this step consumed. -/
def State.tick (s : State) : State := { s with env := s.env.tail }

/-- What is due: reset before everything else (R240, R260), else what the phase says. -/
def due (s : State) : Due :=
  if s.edge.rst then .quiet (applyReset s.tick) else duePhase s.edge s.tick

/-! ### Placing a word of the table (log 17) -/

/-- `n` cells of RXBUF from address `a` on, holding the bytes, and 0 beyond them. -/
def payloadCells : Nat → List Byte → Nat → Mem
  | _, _, 0 => []
  | a, [], n + 1 => (a, 0#8) :: payloadCells (a + 1) [] n
  | a, b :: bs, n + 1 => (a, b) :: payloadCells (a + 1) bs n

/-- The receive phase with these bytes upstream, in receiver state `st` with `fld_cnt`. -/
def placeBytes (st : RxState) (fldCnt : BitVec 2) (bytes : List Byte) (s : State) : State :=
  { s with
    phase := .receive, rxState := st, fldCnt := fldCnt, winCnt := 0, hostQ := bytes ++ s.hostQ
    env := Edge.calm :: s.env }

/-- The panel queue with this item at its head, in a phase that drains it. -/
def placeOp (op : PanelOp) (s : State) : State :=
  { s with
    phase := if s.phase = .bringup then .bringup else .dispatch
    draining := decide (s.phase ≠ .bringup)
    dq := [], pq := op :: s.pq, env := Edge.calm :: s.env }

/-- An emitted frame of length `len` whose payload begins with `bytes` and goes on with 0 bytes. -/
def placeFrame (len : Word) (bytes : List Byte) (s : State) : State :=
  { s with
    phase := .dispatch, draining := false, frmLen := len, rxbuf := payloadCells 0 bytes len.toNat
    env := Edge.calm :: s.env }

/-- The receiver state of an event word. -/
def eventState (word : BitVec 10) : RxState :=
  let st : BitVec 2 := word.extractLsb' 8 2
  if st = 0#2 then .seekMagic else if st = 1#2 then .readLength else if st = 2#2 then .readPayload else .readCrc

/-- The queue item of a panel instruction. -/
def panelItem : Instr → Option PanelOp
  | .opSwreset => some .swreset
  | .opEntryM d => some (.entry .master d)
  | .opEntryS d => some (.entry .slave d)
  | .opColwinM s e => some (.colwin .master s e)
  | .opColwinS s e => some (.colwin .slave s e)
  | .opRowwinM s e => some (.rowwin .master s e)
  | .opRowwinS s e => some (.rowwin .slave s e)
  | .opColcurM c => some (.colcur .master c)
  | .opColcurS c => some (.colcur .slave c)
  | .opRowcurM r => some (.rowcur .master r)
  | .opRowcurS r => some (.rowcur .slave r)
  | .opNewM bytes => some (.plane .master .new bytes)
  | .opNewS bytes => some (.plane .slave .new bytes)
  | .opOldM bytes => some (.plane .master .old bytes)
  | .opOldS bytes => some (.plane .slave .old bytes)
  | .opBorder d => some (.border d)
  | .opTempsrc d => some (.tempsrc d)
  | .opUpdate d => some (.update d)
  | .opActivate => some .activate
  | .trigFull => some (.trig .full)
  | .trigPart => some (.trig .part)
  | .rst => some .rst
  | .wait t _ => some (.wait t)
  | _ => none

/-- The state in which the code's instruction is due. A code that decodes to nothing changes nothing. -/
def placeCode (code : Code) (s : State) : State :=
  match code with
  | .wire bytes => placeBytes .seekMagic 0 bytes s
  | .event fldCnt word => placeBytes (eventState word) fldCnt [word.extractLsb' 0 8] s
  | .payload len header => placeFrame len header s
  | .ack bytes =>
    match decodeAck s.cfg bytes with
    | .ok .ackOk => { s with phase := .dispatch, draining := true, dq := [], pq := [], env := Edge.calm :: s.env }
    | .ok .ackBadlen => placeBytes .readLength 3 [0xFF#8] s
    | .ok .ackBadcrc => placeBytes .readCrc 3 [0xFF#8] s
    | _ => s
  | .panel bytes =>
    match decodePanel s.cfg bytes with
    | .ok i =>
      match panelItem i with
      | some op => placeOp op s
      | none => s
    | .error _ => s
  | .trigger ops =>
    match decodeTrigger s.cfg ops with
    | .ok .trigFull => placeOp (.trig .full) s
    | .ok .trigPart => placeOp (.trig .part) s
    | _ => s
  | .reset => placeOp .rst s
  | .waited t _ => placeOp (.wait t) s

end Sys2Proof.Machine
end

