-- ==== Sys2Proof/Machine/Dispatch.lean ====
section
/-! DEFINITION. The meaning of every instruction, one arm per constructor of Instr. -/

namespace Sys2Proof.Machine

/-- The meaning of an instruction in a state. -/
def exec (i : Instr) (s : State) : Host.Outcome State Fault Refusal :=
  match i with
  | .mwf1Frame len payload crc => Sys2Proof.Machine.execMwf1Frame len payload crc s
  | .rxSeek b => Sys2Proof.Machine.execRxSeek b s
  | .rxLen b => Sys2Proof.Machine.execRxLen b s
  | .rxLenLast b => Sys2Proof.Machine.execRxLenLast b s
  | .rxPay b => Sys2Proof.Machine.execRxPay b s
  | .rxCrc b => Sys2Proof.Machine.execRxCrc b s
  | .rxCrcLast b => Sys2Proof.Machine.execRxCrcLast b s
  | .frmLegacy => Sys2Proof.Machine.execFrmLegacy s
  | .frmFullPartial flags => Sys2Proof.Machine.execFrmFullPartial flags s
  | .frmFullForce flags => Sys2Proof.Machine.execFrmFullForce flags s
  | .frmRectPartial flags x y w h => Sys2Proof.Machine.execFrmRectPartial flags x y w h s
  | .frmRectForce flags x y w h => Sys2Proof.Machine.execFrmRectForce flags x y w h s
  | .badshape _ hdr => Sys2Proof.Machine.execBadshape hdr s
  | .ackOk => Sys2Proof.Machine.execAckOk s
  | .ackBadlen => Sys2Proof.Machine.execAckBadlen s
  | .ackBadcrc => Sys2Proof.Machine.execAckBadcrc s
  | .opSwreset => Sys2Proof.Machine.execOpSwreset s
  | .opEntryM d => Sys2Proof.Machine.execOpEntryM d s
  | .opEntryS d => Sys2Proof.Machine.execOpEntryS d s
  | .opColwinM start stop => Sys2Proof.Machine.execOpColwinM start stop s
  | .opColwinS start stop => Sys2Proof.Machine.execOpColwinS start stop s
  | .opRowwinM start stop => Sys2Proof.Machine.execOpRowwinM start stop s
  | .opRowwinS start stop => Sys2Proof.Machine.execOpRowwinS start stop s
  | .opColcurM col => Sys2Proof.Machine.execOpColcurM col s
  | .opColcurS col => Sys2Proof.Machine.execOpColcurS col s
  | .opRowcurM row => Sys2Proof.Machine.execOpRowcurM row s
  | .opRowcurS row => Sys2Proof.Machine.execOpRowcurS row s
  | .opNewM bytes => Sys2Proof.Machine.execOpNewM bytes s
  | .opNewS bytes => Sys2Proof.Machine.execOpNewS bytes s
  | .opOldM bytes => Sys2Proof.Machine.execOpOldM bytes s
  | .opOldS bytes => Sys2Proof.Machine.execOpOldS bytes s
  | .opBorder d => Sys2Proof.Machine.execOpBorder d s
  | .opTempsrc d => Sys2Proof.Machine.execOpTempsrc d s
  | .opUpdate d => Sys2Proof.Machine.execOpUpdate d s
  | .opActivate => Sys2Proof.Machine.execOpActivate s
  | .trigFull => Sys2Proof.Machine.execTrigFull s
  | .trigPart => Sys2Proof.Machine.execTrigPart s
  | .rst => Sys2Proof.Machine.execRst s
  | .wait t idle => Sys2Proof.Machine.execWait t idle s

end Sys2Proof.Machine
end

