-- ==== Sys2Proof/Machine/Step.lean ====
section
/-! DEFINITION. One step of the block, and the state in which a word of the table is due. -/

namespace Sys2Proof.Machine

/-- One step (R5: one input event or one internal sequencing step): what is due (Fetch.lean), an instruction by its
meaning. -/
def step (s : State) : Host.Outcome State Fault Refusal :=
  match due s with
  | .instr i s1 => exec i s1
  | .quiet s1 => .next s1
  | .fault f => .fault f

/-- `s` with the instruction of the table's word stored where step fetches its next instruction (log 17). -/
def State.withFetchWord (s : State) (nbits w : Nat) : State :=
  match tableCode s.cfg nbits w with
  | none => s
  | some code => placeCode code s

end Sys2Proof.Machine
end

