-- ==== Sys2Proof/Machine/Ports.lean ====
section
/-! DEFINITION. The output ports as functions of the state (spec/10_state.md R41 to R45, spec/70_reset_and_hazards.md
R260). -/

namespace Sys2Proof.Machine

/-- The outputs of the block. A data output is `none` while its valid signal is 0. -/
structure Outputs where
  /-- `rx_ready` -/
  rxReady : Bool
  /-- `tx_valid` -/
  txValid : Bool
  /-- `tx_data` -/
  txData : Option Byte
  /-- `pnl_valid` -/
  pnlValid : Bool
  /-- `pnl_dc`: true for a data byte -/
  pnlDc : Bool
  /-- `pnl_data` -/
  pnlData : Option Byte
  /-- `pnl_rst_n` -/
  pnlRstN : Bool
  /-- `st_phase` -/
  stPhase : BitVec 2
  /-- `st_rx_state` -/
  stRxState : BitVec 2
  /-- `st_ready` -/
  stReady : Bool
  /-- `st_result` -/
  stResult : BitVec 3
deriving DecidableEq, Repr

/-- The panel port is active only in BRINGUP and in the draining of a dispatch (R185, R240). -/
def State.panelActive (s : State) : Bool :=
  match s.phase with
  | .bringup => true
  | .dispatch => s.draining
  | .receive => false
  | .ack => false

/-- The byte the panel port offers, with `pnl_dc` (R43). -/
def State.panelOffer (s : State) : Option (Bool × Byte) :=
  if s.panelActive then
    match s.dq, s.pq with
    | d :: _, _ => some (true, d)
    | [], op :: _ => (op.commandByte s.cfg).map fun b => (false, b)
    | [], [] => none
  else none

/-- The next step performs `RST(t)`, unless `rst` is asserted: the pulse is driven within it (R44, R185). -/
def State.resetDriven (s : State) : Bool :=
  s.panelActive && (match s.dq, s.pq with
    | [], .rst :: _ => true
    | _, _ => false)

/-- The outputs in a state, between steps, with `rst = 0` (R41 to R45). `RST(t)` completes within one step of the model (R241),
so `pnl_rst_n` is 1 in every state, as it is on the release of reset (R46); `portOutputs` has its level within a step. -/
def State.outputs (s : State) : Outputs :=
  { rxReady := decide (s.phase = .receive)
    txValid := decide (s.ackQ ≠ [])
    txData := s.ackQ.head?
    pnlValid := s.panelOffer.isSome
    pnlDc := (s.panelOffer.map Prod.fst).getD false
    pnlData := s.panelOffer.map Prod.snd
    pnlRstN := true
    stPhase := s.phase.code
    stRxState := s.rxState.code
    stReady := s.ready
    stResult := s.lastResult.code }

/-- The outputs while `rst = 1` (R46, R260): the reset levels, whatever the state was. -/
def resetOutputs : Outputs :=
  { rxReady := false, txValid := false, txData := none, pnlValid := false, pnlDc := false, pnlData := none,
    pnlRstN := true, stPhase := Phase.bringup.code, stRxState := RxState.seekMagic.code, stReady := false,
    stResult := LastResult.none.code }

/-- The outputs while the step with these inputs is taken: the reset levels while `rst = 1` (R260), and `pnl_rst_n = 0` in the
step that performs `RST(t)` (R44, R185). -/
def portOutputs (e : Edge) (s : State) : Outputs :=
  if e.rst then resetOutputs else { s.outputs with pnlRstN := !s.resetDriven }

/-- Quiescence (R273). -/
def State.quiescent (s : State) : Bool :=
  decide (s.phase = .receive) && decide (s.rxState = .seekMagic) && decide (s.winCnt = 0) && decide (s.ackQ = []) &&
    decide (s.pq = []) && decide (s.dq = [])

end Sys2Proof.Machine
end

