-- ==== Sys2Proof/Safety.lean ====
section
/-! DEFINITION. The terms claims are stated in: what the spec's prose says of every state the block is in (`State.Inv`),
the contents of the window and of the memories, and the panel operations a refresh appends, as total functions of image
bytes. -/

namespace Sys2Proof.Machine

/-! ### Receiver -/

/-- The bytes held in the window, oldest first (R23). -/
def State.window (s : State) : List Byte := [s.win0, s.win1, s.win2, s.win3].take s.winCnt.toNat

/-- `s` with the four window registers of `t`: how a statement leaves `win[*]` open where they hold no value (R23, I2). -/
def State.withWindowOf (s t : State) : State :=
  { s with win0 := t.win0, win1 := t.win1, win2 := t.win2, win3 := t.win3 }

/-- The first `n` bytes of RXBUF hold values. -/
def State.written (s : State) (n : Nat) : Prop := ∀ a, a < n → (s.rxByte a).isSome = true

/-- The payload `p` stands in RXBUF from address 0. -/
def State.holdsPayload (s : State) (p : List Byte) : Prop :=
  s.frmLen.toNat = p.length ∧ ∀ i, i < p.length → s.rxByte i = p[i]?

/-- The image `img` stands in the payload from offset `off` (R64). -/
def State.holdsImage (s : State) (off : Nat) (img : Nat → Byte) : Prop :=
  off + s.cfg.fb ≤ s.frmLen.toNat ∧ ∀ i, i < s.cfg.fb → s.rxByte (off + i) = some (img i)

/-- The rectangle data `dat`, `n` bytes of it, stand in the payload from offset 9 (R64). -/
def State.holdsRect (s : State) (n : Nat) (dat : Nat → Byte) : Prop :=
  9 + n ≤ s.frmLen.toNat ∧ ∀ i, i < n → s.rxByte (9 + i) = some (dat i)

/-- PREV holds the image `img` (R37). -/
def State.shows (s : State) (img : Nat → Byte) : Prop :=
  ∀ i, i < s.cfg.fb → s.prevByte i = some (img i)

/-! ### The invariant -/

/-- What the spec says of every state between steps. -/
structure State.Inv (s : State) : Prop where
  /-- the parameters meet the constraints of R6, R87, R89, R90 and R271 -/
  params : s.cfg.wf = true
  /-- RXBUF is canonical, inside its addresses (R36) -/
  rxbufForm : Mem.wf none s.rxbuf = true
  rxbufRange : ∀ c ∈ s.rxbuf, c.1 < s.cfg.maxlen
  /-- PREV is canonical, inside its addresses (R37) -/
  prevForm : Mem.wf (some s.cfg.white) s.prev = true
  prevRange : ∀ c ∈ s.prev, c.1 < s.cfg.fb
  /-- "a 3-bit count in 0..3 between steps" (R23) -/
  window : s.winCnt.toNat ≤ 3
  /-- `pay_cnt` is in `0..MAXLEN` (R26) -/
  payRange : s.payCnt ≤ s.cfg.maxlen
  /-- in READ_PAYLOAD an accepted frame is being captured, and not yet all of it (R25, R116) -/
  payload : s.rxState = .readPayload →
    acceptLen s.cfg s.frmLen.toNat = true ∧ s.payCnt < s.frmLen.toNat ∧ s.written s.payCnt
  /-- in READ_CRC the whole payload has been captured (R116) -/
  trailer : s.rxState = .readCrc →
    acceptLen s.cfg s.frmLen.toNat = true ∧ s.payCnt = s.frmLen.toNat ∧ s.written s.frmLen.toNat
  /-- at the start of a dispatch RXBUF holds an accepted frame (R63, R121) -/
  frame : s.phase = .dispatch → s.draining = false →
    acceptLen s.cfg s.frmLen.toNat = true ∧ s.written s.frmLen.toNat
  /-- outside RECEIVE the receiver is in SEEK_MAGIC with an empty window (R121, R124) -/
  seek : s.phase ≠ .receive → s.rxState = .seekMagic ∧ s.winCnt = 0
  /-- the panel queue is empty but in BRINGUP and while a dispatch drains (R34, R74) -/
  queue : s.panelActive = false → s.pq = [] ∧ s.dq = []
  /-- an acknowledgement is in progress exactly in ACK (R28, R31) -/
  ack : s.phase = .ack ↔ s.ackQ ≠ []
  ackLength : s.ackQ.length ≤ 3
  /-- only a dispatch drains (the model's own bit, log 10) -/
  drain : s.draining = true → s.phase = .dispatch
  /-- `ready` is 0 before bring-up sets it (R29, R172) -/
  notReady : s.phase = .bringup → s.buStage = false → s.ready = false
  /-- the cold-start clear runs only when ready (R173) -/
  clear : s.buStage = true → s.ready = true

/-! ### Panel operations of a refresh, from image bytes -/

/-- One plane of one controller's region: the bytes `f` in stream order (R153, R154). -/
def planeOf (c : Config) (ctl : Ctl) (p : Plane) (f : Nat → Nat → Byte) (glo ghi rlo rhi : Nat) : PanelOp :=
  .plane ctl p ((stream c ctl glo ghi rlo rhi).map fun rg => f rg.1 rg.2)

/-- One controller's share of a refresh (R174, R176): addressing, NEW, OLD and, with `PER_CTL`, the trigger. -/
def shareOf (c : Config) (k : TrigKind) (new old : Nat → Nat → Byte) (p : Part) (rlo rhi : Nat) : List PanelOp :=
  addr c p.ctl p.lo p.hi rlo rhi ++
    [planeOf c p.ctl .new new p.lo p.hi rlo rhi, planeOf c p.ctl .old old p.lo p.hi rlo rhi] ++
    (if c.trigMode = .perCtl then [.trig k] else [])

/-- `IMG(F)` of a total image (R155). -/
def imgOf (c : Config) (f : Nat → Byte) : Nat → Nat → Byte := fun r g => xform c (f (r * c.bpr + g))

/-- `FULL(F)` of a total image (R174). -/
def fullOf (c : Config) (f : Nat → Byte) : List PanelOp :=
  shareOf c .full (imgOf c f) (fun _ _ => 0x00#8) { ctl := .master, lo := 0, hi := c.ovl } 0 (c.h - 1) ++
    shareOf c .full (imgOf c f) (fun _ _ => 0x00#8) { ctl := .slave, lo := c.ovl, hi := c.n - 1 } 0 (c.h - 1) ++
    (if c.trigMode = .once then [.trig .full] else [])

/-- `PARTIAL` of a region, with NEW bytes `new` and OLD bytes from the image `old` (R176). -/
def partialOf (c : Config) (g : Region) (new : Nat → Nat → Byte) (old : Nat → Byte) : List PanelOp :=
  (splitCols c g.cx0 g.cx1).flatMap (fun p => shareOf c .part new (imgOf c old) p g.ry0 g.ry1) ++
    (if c.trigMode = .once then [.trig .part] else [])

/-- The NEW bytes of a rectangle whose data are `dat` with stride `stride` (R155). -/
def rectOf (c : Config) (g : Region) (stride : Nat) (dat : Nat → Byte) : Nat → Nat → Byte :=
  fun r col => xform c (dat ((r - g.ry0) * stride + (col - g.cx0)))

/-- The image `old` with the region's bytes replaced by the rectangle's (R210): `idx(r, g)` is in the region when its row
and column are. -/
def patchedOf (c : Config) (g : Region) (stride : Nat) (dat old : Nat → Byte) : Nat → Byte := fun i =>
  let r := i / c.bpr
  let col := i % c.bpr
  if g.ry0 ≤ r ∧ r ≤ g.ry1 ∧ g.cx0 ≤ col ∧ col ≤ g.cx1 then dat ((r - g.ry0) * stride + (col - g.cx0)) else old i

/-- The plane data bytes among panel operations (R182). -/
def planeByteCount : List PanelOp → Nat
  | [] => 0
  | .plane _ _ bytes :: ops => bytes.length + planeByteCount ops
  | _ :: ops => planeByteCount ops

/-- The environment makes the progress R245 asks for: no reset, acknowledgement bytes taken, panel transfers completed, waits
ended, field timers expiring. The host may or may not offer a byte. -/
def Edge.fair (e : Edge) : Bool :=
  !e.rst && e.txReady && e.pnlReady && e.expireField && (e.busyIdle || e.busyTimeout)

/-- The frame kind with its flags byte changed by `g`; other instructions as they are (R93). -/
def withFlags (g : Byte → Byte) : Instr → Instr
  | .frmFullPartial f => .frmFullPartial (g f)
  | .frmFullForce f => .frmFullForce (g f)
  | .frmRectPartial f x y w h => .frmRectPartial (g f) x y w h
  | .frmRectForce f x y w h => .frmRectForce (g f) x y w h
  | .badshape len (.full f) => .badshape len (.full (g f))
  | .badshape len (.rect f x y w h) => .badshape len (.rect (g f) x y w h)
  | i => i

end Sys2Proof.Machine
end

