-- ==== Sys2Proof/Certificates/Slice0/Obligations.lean ====
section
/-! DEFINITION. The statements for the provers. -/

open Sys2Proof Sys2Proof.Machine

/-! ### Encodings -/

/-- 30_encoding.md R81 to R91, 42_geometry.md R152: under parameters that meet the spec's constraints, whose opcodes
differ and whose window and cursor encodings are injective, decoding the encoding of a well-formed instruction gives
it back, with every operand at every value. -/
def Obligations.DecodeEncodeRoundTrip : Prop :=
  ∀ (c : Config) (i : Instr), c.wf = true → c.readable = true → i.wf c = true → decode c (encode c i) = .ok i

/-- 30_encoding.md R81, R82, R92: the wire bytes the decoder accepts are exactly the encodings of frames whose payload
has LENGTH bytes. -/
def Obligations.WireDecodeIsExact : Prop :=
  ∀ (c : Config) (bytes : List Byte) (i : Instr), decode c (.wire bytes) = .ok i ↔
    ∃ (len : Word) (p : List Byte) (crc : Word),
      i = .mwf1Frame len p crc ∧ p.length = len.toNat ∧ bytes = wireBytes len p crc

/-- 30_encoding.md R88, R89, 42_geometry.md R152: the bytes of a panel command the decoder accepts are the encoding of
what it answers, whatever the opcodes and the window and cursor encodings are. -/
def Obligations.PanelDecodeIsExact : Prop :=
  ∀ (c : Config) (bytes : List Byte) (i : Instr), decode c (.panel bytes) = .ok i → encode c i = .panel bytes

/-- Words of spec/opcode_table.json decode to the instructions they stand for: 30_encoding.md R91 (receiver events),
R84 and R86 (flags bytes), R87 (acknowledgements), R81 (a wire frame with LENGTH 0), 93_implementation_defined.md I9
(panel opcodes). The pattern of each word is the spec's encoding. How a word without its operands is filled up is the
model's reading: fld_cnt 0, data bytes, geometry and payload zero, the length the one its shape asks for. [The model's
own: the reading of the table's words, log 18.] -/
def Obligations.TableWordsDecode : Prop :=
  decodeTableWord 16 0x04D = some (.rxSeek 0x4D#8) ∧ decodeTableWord 16 0x109 = some (.rxLen 0x09#8) ∧
    decodeTableWord 16 0x231 = some (.rxPay 0x31#8) ∧ decodeTableWord 16 0x326 = some (.rxCrc 0x26#8) ∧
    decodeTableWord 8 0x00 = some (.frmFullPartial 0x00#8) ∧ decodeTableWord 8 0x01 = some (.frmFullForce 0x01#8) ∧
    decodeTableWord 8 0x02 = some (.frmRectPartial 0x02#8 0 0 0 0) ∧
    decodeTableWord 8 0x03 = some (.frmRectForce 0x03#8 0 0 0 0) ∧
    decodeTableWord 16 0x4B4F = some .ackOk ∧ decodeTableWord 24 0x4C5245 = some .ackBadlen ∧
    decodeTableWord 24 0x435245 = some .ackBadcrc ∧ decodeTableWord 32 0x3146574D = some (.mwf1Frame 0 [] 0) ∧
    decodeTableWord 8 0x12 = some .opSwreset ∧ decodeTableWord 8 0xC5 = some (.opRowwinS 0 0) ∧
    decodeTableWord 8 0x24 = some (.opNewM []) ∧ decodeTableWord 16 0x4F4B = none

/-- 30_encoding.md R86, 44_orchestrator.md R200 to R204: the kind of the frame in dispatch, from its length first and
then from bit 1 of its first byte; the geometry fields are little-endian at payload offsets 1, 3, 5 and 7 (R85). -/
def Obligations.FrameKindDecode : Prop :=
  ∀ (s : State) (p : List Byte), s.holdsPayload p → 9 ≤ p.length → p.length ≤ s.cfg.maxlen →
    (p.length = s.cfg.fb → decodeFrame s = .ok .frmLegacy) ∧
    (p.length ≠ s.cfg.fb → ∀ f : Byte, p[0]? = some f →
      (f.getLsbD 1 = false → decodeFrame s = .ok
        (if p.length = s.cfg.fb + 1 then (if f.getLsbD 0 then .frmFullForce f else .frmFullPartial f)
        else .badshape s.frmLen (.full f))) ∧
      (f.getLsbD 1 = true → ∃ x y w h : Half,
        (∀ a b : Byte, p[1]? = some a → p[2]? = some b → x.toNat = a.toNat + 256 * b.toNat) ∧
        (∀ a b : Byte, p[3]? = some a → p[4]? = some b → y.toNat = a.toNat + 256 * b.toNat) ∧
        (∀ a b : Byte, p[5]? = some a → p[6]? = some b → w.toNat = a.toNat + 256 * b.toNat) ∧
        (∀ a b : Byte, p[7]? = some a → p[8]? = some b → h.toNat = a.toNat + 256 * b.toNat) ∧
        decodeFrame s = .ok
          (if p.length = 9 + w.toNat / 8 * h.toNat then
            (if f.getLsbD 0 then .frmRectForce f x y w h else .frmRectPartial f x y w h)
          else .badshape s.frmLen (.rect f x y w h))))

/-- 30_encoding.md R93: bits 7 to 2 of the flags byte are ignored. Clearing them changes neither the decode of a frame
but for the flags operand, nor anything an execution does but for `f_flags`. -/
def Obligations.ReservedFlagBitsIgnored : Prop :=
  (∀ (c : Config) (len : Word) (f : Byte) (rest : List Byte) (i : Instr),
    decode c (.payload len (f :: rest)) = .ok i →
      decode c (.payload len ((f &&& 0x03#8) :: rest)) = .ok (withFlags (fun _ => f &&& 0x03#8) i)) ∧
  (∀ (i : Instr) (g : Byte → Byte) (s t : State), i.format = .payload → exec i s = .next t →
    ∃ f : Byte, exec (withFlags g i) s = .next { t with fFlags := f })

/-! ### Checksum -/

/-- 40_checksum.md R101: CRC_UPDATE as R101's loop gives it. It is linear over XOR; it shifts the state down by a byte
and adds the value of the byte the low state byte and the operand make; and from state 0 the eight single-bit bytes
have the values of R101's loop with POLY = 0xEDB88320. Together these fix CRC_UPDATE everywhere. -/
def Obligations.CrcUpdateIsLinear : Prop :=
  (∀ (s1 s2 : Word) (b1 b2 : Byte), crcUpdate (s1 ^^^ s2) (b1 ^^^ b2) = crcUpdate s1 b1 ^^^ crcUpdate s2 b2) ∧
  (∀ (s : Word) (b : Byte), crcUpdate s b = (s >>> 8) ^^^ crcUpdate 0 (s.extractLsb' 0 8 ^^^ b)) ∧
  crcUpdate 0 0x80#8 = 0xEDB88320#32 ∧ crcUpdate 0 0x40#8 = 0x76DC4190#32 ∧ crcUpdate 0 0x20#8 = 0x3B6E20C8#32 ∧
  crcUpdate 0 0x10#8 = 0x1DB71064#32 ∧ crcUpdate 0 0x08#8 = 0x0EDB8832#32 ∧ crcUpdate 0 0x04#8 = 0x076DC419#32 ∧
  crcUpdate 0 0x02#8 = 0xEE0E612C#32 ∧ crcUpdate 0 0x01#8 = 0x77073096#32

/-- 40_checksum.md R104 (b) and (c): streaming and bulk agree, and a fold over a concatenation is a fold of a fold. -/
def Obligations.CrcStreamingEqualsBulk : Prop :=
  (∀ p : List Byte, crcFinal (crcFold 0xFFFFFFFF#32 p) = crc32 p) ∧
    ∀ (s : Word) (p q : List Byte), crcFold s (p ++ q) = crcFold (crcFold s p) q

/-- 40_checksum.md R105: every single-bit change of a payload changes its CRC32. -/
def Obligations.CrcDetectsSingleBitErrors : Prop :=
  ∀ (p q : List Byte) (b : Byte) (k : Nat), k < 8 → crc32 (p ++ (b ^^^ (1#8 <<< k)) :: q) ≠ crc32 (p ++ b :: q)

/-! ### Receiver -/

/-- 41_frame_receiver.md R111: RX_SEEK completes; MAGIC in the full window moves the receiver to READ_LENGTH, a
mismatch drops only the oldest byte, and with fewer than four bytes held nothing is compared. Nothing else changes;
the bytes above the count hold no value (R23) and are left open. -/
def Obligations.SeekByteSlidesWindow : Prop :=
  ∀ (s : State) (b : Byte), s.winCnt.toNat ≤ 3 → ∃ t, exec (.rxSeek b) s = .next t ∧
    (s.window ++ [b] = [0x4D#8, 0x57#8, 0x46#8, 0x31#8] →
      t = { s with winCnt := 0, fldAcc := 0, fldCnt := 0, rxState := .readLength }.withWindowOf t) ∧
    (s.window ++ [b] ≠ [0x4D#8, 0x57#8, 0x46#8, 0x31#8] →
      t.window = (if s.winCnt.toNat = 3 then (s.window ++ [b]).drop 1 else s.window ++ [b]) ∧
      t = { s with winCnt := t.winCnt }.withWindowOf t)

/-- 41_frame_receiver.md R113, R117, 20_memory.md R65, 30_encoding.md R82: each of the first three bytes of a LENGTH
or trailer field goes into its byte of the accumulator and is counted, and nothing else changes; from an empty
accumulator, three of them and the last byte make the little-endian value of the four. -/
def Obligations.FieldBytesAssembleLittleEndian : Prop :=
  ∀ (s : State) (b0 b1 b2 b3 : Byte) (field : Byte → Instr), field = .rxLen ∨ field = .rxCrc →
    (s.fldCnt.toNat < 3 → exec (field b0) s = .next { s with
      fldAcc := s.fldAcc ||| (b0.zeroExtend 32 <<< (8 * s.fldCnt.toNat)), fldCnt := s.fldCnt + 1 }) ∧
    (s.fldAcc = 0 → s.fldCnt = 0 → ∃ t1 t2 t3,
      exec (field b0) s = .next t1 ∧ exec (field b1) t1 = .next t2 ∧ exec (field b2) t2 = .next t3 ∧
      t1.fldCnt = 1 ∧ t2.fldCnt = 2 ∧ t3.fldCnt = 3 ∧ t3 = { s with fldAcc := t3.fldAcc, fldCnt := t3.fldCnt } ∧
      (fieldLast b3 t3).toNat =
        b0.toNat + 2 ^ 8 * b1.toNat + 2 ^ 16 * b2.toNat + 2 ^ 24 * b3.toNat)

/-- 41_frame_receiver.md R114, R115, 60_exceptions.md R232: the last LENGTH byte either starts the payload or is
answered with the bad-length acknowledgement and a resync; nothing else changes, and the emptied window's bytes, which
hold no value, are left open. -/
def Obligations.LengthAcceptedOrRefused : Prop :=
  ∀ (s : State) (b : Byte) (len : Word), len = s.fldAcc ||| (b.zeroExtend 32 <<< 24) →
    ((len.toNat = s.cfg.fb ∨ len.toNat = s.cfg.fb + 1 ∨ (9 ≤ len.toNat ∧ len.toNat ≤ s.cfg.fb + 9)) →
      exec (.rxLenLast b) s = .next { s with
        fldCnt := 0, frmLen := len, payCnt := 0, crc := 0xFFFFFFFF#32, rxState := .readPayload }) ∧
    (¬ (len.toNat = s.cfg.fb ∨ len.toNat = s.cfg.fb + 1 ∨ (9 ≤ len.toNat ∧ len.toNat ≤ s.cfg.fb + 9)) →
      ∃ t, exec (.rxLenLast b) s = .next t ∧ t = { s with
        fldCnt := 0, ackQ := s.cfg.errPrefix ++ [s.cfg.errLen], phase := .ack, rxState := .seekMagic,
        winCnt := 0 }.withWindowOf t)

/-- 41_frame_receiver.md R116, 20_memory.md R71: a payload byte is stored at `pay_cnt` and nowhere else, folded into
the CRC and counted; the last one moves the receiver to READ_CRC; an address outside RXBUF faults. Nothing else
changes. -/
def Obligations.PayloadByteStored : Prop :=
  ∀ (s : State) (b : Byte),
    (s.payCnt < s.cfg.maxlen → ∃ t, exec (.rxPay b) s = .next t ∧
      (∀ a, t.rxByte a = if a = s.payCnt then some b else s.rxByte a) ∧
      t.crc = crcUpdate s.crc b ∧ t.payCnt = s.payCnt + 1 ∧
      (s.payCnt + 1 = s.frmLen.toNat → t.rxState = .readCrc ∧ t.fldAcc = 0 ∧ t.fldCnt = 0) ∧
      (s.payCnt + 1 ≠ s.frmLen.toNat → t.rxState = s.rxState ∧ t.fldAcc = s.fldAcc ∧ t.fldCnt = s.fldCnt) ∧
      t = { s with
        rxbuf := t.rxbuf, crc := t.crc, payCnt := t.payCnt, rxState := t.rxState, fldAcc := t.fldAcc,
        fldCnt := t.fldCnt }) ∧
    (s.cfg.maxlen ≤ s.payCnt → exec (.rxPay b) s = .fault .rxbufIndex)

/-- 41_frame_receiver.md R118, R119, R121, 60_exceptions.md R233: the last trailer byte emits the frame when the
trailer equals the complement of the running CRC, and else is answered with the bad-checksum acknowledgement and a
resync. Nothing else changes, and the emptied window's bytes, which hold no value, are left open. [The model's own:
`draining`, log 10.] -/
def Obligations.TrailerEmitsOrRefuses : Prop :=
  ∀ (s : State) (b : Byte) (c : Word), c = s.fldAcc ||| (b.zeroExtend 32 <<< 24) →
    ∃ t, exec (.rxCrcLast b) s = .next t ∧
    (c = ~~~ s.crc → t = { s with
      fldCnt := 0, rxState := .seekMagic, winCnt := 0, phase := .dispatch, draining := false }.withWindowOf t) ∧
    (c ≠ ~~~ s.crc → t = { s with
      fldCnt := 0, ackQ := s.cfg.errPrefix ++ [s.cfg.errCrc], phase := .ack, rxState := .seekMagic,
      winCnt := 0 }.withWindowOf t)

/-- 41_frame_receiver.md R126 without noise: a whole frame with an accepted length and the right trailer, received
from an empty window, is emitted; its payload stands in RXBUF, and RXBUF above it is as before; PREV, the result, the
queues, the panel and all else but the receiver's own registers are untouched. [The model's own: `draining`, log 10.]
-/
def Obligations.FrameRoundTrip : Prop :=
  ∀ (s : State) (p : List Byte), s.phase = .receive → s.rxState = .seekMagic → s.winCnt = 0 →
    p.length < 2 ^ 32 →
    (p.length = s.cfg.fb ∨ p.length = s.cfg.fb + 1 ∨ (9 ≤ p.length ∧ p.length ≤ s.cfg.fb + 9)) → p ≠ [] →
    ∃ t, exec (.mwf1Frame (BitVec.ofNat 32 p.length) p (crc32 p)) s = .next t ∧
      t.phase = .dispatch ∧ t.draining = false ∧ t.rxState = .seekMagic ∧ t.winCnt = 0 ∧ t.holdsPayload p ∧
      (∀ a, p.length ≤ a → t.rxByte a = s.rxByte a) ∧
      t = { s with
        phase := t.phase, draining := t.draining, win0 := t.win0, win1 := t.win1, win2 := t.win2,
        win3 := t.win3, fldAcc := t.fldAcc, fldCnt := t.fldCnt, frmLen := t.frmLen, payCnt := t.payCnt,
        crc := t.crc, rxbuf := t.rxbuf }

/-- 41_frame_receiver.md R112, R126: noise in which MAGIC does not occur before the frame's own does not hide the
frame. The bytes of noise and frame, taken one by one, leave one emitted frame with that payload. [The model's own:
`hostQ`, log 7, `draining`, log 10.] -/
def Obligations.NoiseDoesNotHideFrame : Prop :=
  ∀ (s : State) (noise p : List Byte), s.phase = .receive → s.rxState = .seekMagic → s.winCnt = 0 →
    p.length < 2 ^ 32 →
    (p.length = s.cfg.fb ∨ p.length = s.cfg.fb + 1 ∨ (9 ≤ p.length ∧ p.length ≤ s.cfg.fb + 9)) → p ≠ [] →
    (∀ k, k < noise.length → ((noise ++ magic).drop k).take 4 ≠ magic) →
    ∃ t, receiveBytes (noise ++ wireBytes (BitVec.ofNat 32 p.length) p (crc32 p)) s = .ok t ∧
      t.phase = .dispatch ∧ t.draining = false ∧ t.rxState = .seekMagic ∧ t.winCnt = 0 ∧ t.holdsPayload p ∧
      t.prev = s.prev ∧ t.ackQ = s.ackQ ∧ t.lastResult = s.lastResult ∧ t.hostQ = s.hostQ

/-- 41_frame_receiver.md R118, R119: a whole frame with an accepted length and another trailer than its CRC32 is
answered with the bad-checksum acknowledgement; no frame is emitted, and PREV and `last_result` are unchanged. [The
model's own: `hostQ`, log 7, the port records, log 8, the form of `pq` and `dq`, log 9.] -/
def Obligations.FrameBadChecksumRefused : Prop :=
  ∀ (s : State) (p : List Byte) (crc : Word), s.phase = .receive → s.rxState = .seekMagic → s.winCnt = 0 →
    p.length < 2 ^ 32 →
    (p.length = s.cfg.fb ∨ p.length = s.cfg.fb + 1 ∨ (9 ≤ p.length ∧ p.length ≤ s.cfg.fb + 9)) → p ≠ [] →
    crc ≠ crc32 p →
    ∃ t, exec (.mwf1Frame (BitVec.ofNat 32 p.length) p crc) s = .next t ∧
      t.phase = .ack ∧ t.ackQ = s.cfg.errPrefix ++ [s.cfg.errCrc] ∧ t.rxState = .seekMagic ∧
      t.winCnt = 0 ∧ t.prev = s.prev ∧ t.lastResult = s.lastResult ∧ t.ready = s.ready ∧ t.hostQ = s.hostQ ∧
      t.pq = s.pq ∧ t.dq = s.dq ∧ t.panelOut = s.panelOut

/-- 41_frame_receiver.md R114, R115, R125: a frame whose LENGTH is not accepted is answered with the bad-length
acknowledgement after its LENGTH field; the bytes after it stay upstream, unexamined. [The model's own: `hostQ`, log
7.] -/
def Obligations.FrameBadLengthRefused : Prop :=
  ∀ (s : State) (len : Word) (p : List Byte) (crc : Word), s.phase = .receive → s.rxState = .seekMagic →
    s.winCnt = 0 →
    ¬ (len.toNat = s.cfg.fb ∨ len.toNat = s.cfg.fb + 1 ∨ (9 ≤ len.toNat ∧ len.toNat ≤ s.cfg.fb + 9)) →
    ∃ t, exec (.mwf1Frame len p crc) s = .next t ∧
      t.phase = .ack ∧ t.ackQ = s.cfg.errPrefix ++ [s.cfg.errLen] ∧ t.rxState = .seekMagic ∧
      t.winCnt = 0 ∧ t.fldCnt = 0 ∧ t.hostQ = p ++ bytes32 crc ++ s.hostQ ∧
      t = { s with
        phase := t.phase, ackQ := t.ackQ, fldAcc := t.fldAcc, fldCnt := t.fldCnt, hostQ := t.hostQ,
        win0 := t.win0, win1 := t.win1, win2 := t.win2, win3 := t.win3 }

/-- 41_frame_receiver.md R110: MWF1_FRAME is its bytes taken one a step. With the frame's bytes upstream and the
environment's default inputs, some number of steps, at most one a byte, does what the instruction does. [The model's
own: `env`, log 6, `hostQ`, log 7.] -/
def Obligations.FrameIsOneStepPerByte : Prop :=
  ∀ (s : State) (len : Word) (p : List Byte) (crc : Word), s.env = [] →
    ∃ n, n ≤ p.length + 12 ∧
      Host.Core.run Sys2Proof.core n { s with hostQ := wireBytes len p crc ++ s.hostQ } =
        exec (.mwf1Frame len p crc) s

/-- 41_frame_receiver.md R110, R120, 60_exceptions.md R234, R240, R241: one step in RECEIVE without reset. A byte
transfer runs the event the decode of R91 gives, whatever timers expire; without one, a field expiry or a search
expiry acts where it is enabled, and else the block holds its state. The emptied window's bytes, which hold no value,
are left open. [The model's own: `env`, log 6, `hostQ`, log 7.] -/
def Obligations.ReceiveStep : Prop :=
  ∀ s : State, s.phase = .receive → s.edge.rst = false →
    (∀ b rest, s.edge.rxValid = true → s.hostQ = b :: rest →
      step s = exec (decodeEvent s.fldCnt (eventWord s.rxState.code b)) { s.tick with hostQ := rest }) ∧
    ((s.edge.rxValid = false ∨ s.hostQ = []) →
      (s.rxState ≠ .seekMagic → s.edge.expireField = true →
        ∃ t, step s = .next t ∧ t = { s.tick with rxState := .seekMagic, winCnt := 0, fldCnt := 0 }.withWindowOf t) ∧
      (s.rxState ≠ .seekMagic → s.edge.expireField = false → step s = .next s.tick) ∧
      (s.rxState = .seekMagic → s.edge.expireSeek = true →
        ∃ t, step s = .next t ∧ t = { s.tick with winCnt := 0 }.withWindowOf t) ∧
      (s.rxState = .seekMagic → s.edge.expireSeek = false → step s = .next s.tick))

/-- 41_frame_receiver.md R124: every step that brings the receiver into SEEK_MAGIC leaves the window empty. -/
def Obligations.EnteringSeekEmptiesWindow : Prop :=
  ∀ s t : State, step s = .next t → s.rxState ≠ .seekMagic → t.rxState = .seekMagic → t.winCnt = 0

/-! ### Acknowledgements -/

/-- 41_frame_receiver.md R115, R119, R122, 44_orchestrator.md R212, 30_encoding.md R87: what each acknowledgement
sends, and that the two error responses also resync; the emptied window's bytes, which hold no value, are left open.
-/
def Obligations.AcknowledgementsSent : Prop :=
  ∀ s : State,
    exec .ackOk s = .next { s with ackQ := [0x4F#8, 0x4B#8], phase := .ack } ∧
    (∃ t, exec .ackBadlen s = .next t ∧ t = { s with
      ackQ := s.cfg.errPrefix ++ [s.cfg.errLen], phase := .ack, rxState := .seekMagic, winCnt := 0 }.withWindowOf t) ∧
    (∃ t, exec .ackBadcrc s = .next t ∧ t = { s with
      ackQ := s.cfg.errPrefix ++ [s.cfg.errCrc], phase := .ack, rxState := .seekMagic, winCnt := 0 }.withWindowOf t)

/-- 41_frame_receiver.md R123, 10_state.md R42: in ACK each transfer takes the head of `ack_q`; the last one returns
the block to RECEIVE; without a transfer the block waits. [The model's own: `env`, log 6, the port records, log 8.] -/
def Obligations.AckByteTransfer : Prop :=
  ∀ (s : State) (b : Byte) (rest : List Byte), s.phase = .ack → s.edge.rst = false → s.ackQ = b :: rest →
    (s.edge.txReady = true → rest ≠ [] →
      step s = .next { s.tick with ackQ := rest, ackOut := b :: s.ackOut }) ∧
    (s.edge.txReady = true → rest = [] →
      step s = .next { s.tick with ackQ := [], ackOut := b :: s.ackOut, phase := .receive }) ∧
    (s.edge.txReady = false → step s = .next s.tick)

/-! ### Geometry -/

/-- 42_geometry.md R140, R141, R142: REV8 and INV8 are involutions and commute; XFORM is the two corrections that are
switched on. -/
def Obligations.TransformLaws : Prop :=
  (∀ b : Byte, rev8 (rev8 b) = b ∧ inv8 (inv8 b) = b ∧ rev8 (inv8 b) = inv8 (rev8 b)) ∧
  (∀ (b : Byte) (i : Nat), i < 8 → (rev8 b).getLsbD i = b.getLsbD (7 - i) ∧ (inv8 b).getLsbD i = !b.getLsbD i) ∧
  (∀ (c : Config) (b : Byte), xform c b =
    match c.revBits, c.invert with
    | false, false => b
    | true, false => rev8 b
    | false, true => inv8 b
    | true, true => inv8 (rev8 b))

/-- 42_geometry.md R145: VALIDATE rejects exactly the degenerate, the outside and the misaligned rectangles. -/
def Obligations.ValidateRejects : Prop :=
  ∀ (c : Config) (x y w h : Half), validate c x y w h = false ↔
    (w.toNat = 0 ∨ h.toNat = 0 ∨ c.w ≤ x.toNat ∨ c.h ≤ y.toNat ∨ x.toNat % 8 ≠ 0 ∨ w.toNat % 8 ≠ 0)

/-- 42_geometry.md R146, R147: clamping an accepted rectangle keeps its corner and cuts its width and height at the
panel's edge; the result is inside the panel, byte aligned and not empty; its byte columns and rows are the ones R147
gives, and in range. -/
def Obligations.ClampedRectangleInPanel : Prop :=
  ∀ (c : Config) (x y w h : Half), c.wf = true → validate c x y w h = true →
    let r := clamp c x y w h
    let g := rectCols r
    r.x = x.toNat ∧ r.y = y.toNat ∧ r.w = min w.toNat (c.w - x.toNat) ∧ r.h = min h.toNat (c.h - y.toNat) ∧
      r.x + r.w ≤ c.w ∧ r.y + r.h ≤ c.h ∧ 8 ≤ r.w ∧ 1 ≤ r.h ∧ r.w % 8 = 0 ∧
      g.cx0 = r.x / 8 ∧ g.cx1 = (r.x + r.w) / 8 - 1 ∧ g.ry0 = r.y ∧ g.ry1 = r.y + r.h - 1 ∧
      g.cx0 ≤ g.cx1 ∧ g.cx1 ≤ c.n - 1 ∧ g.ry0 ≤ g.ry1 ∧ g.ry1 ≤ c.h - 1

/-- 42_geometry.md R148, R149: SPLIT of a column range gives the master's part and then the slave's, each the range
clipped to the controller's span, and a controller exactly when the range meets its span; it is never empty, has two
parts exactly when the range holds the overlap column, and its parts cover the range. -/
def Obligations.SplitCoversColumns : Prop :=
  ∀ (c : Config) (cx0 cx1 : Nat), c.wf = true → cx0 ≤ cx1 → cx1 < c.n →
    let parts := splitCols c cx0 cx1
    ctlSpan c .master = (0, c.m - 1) ∧ ctlSpan c .slave = (c.m - 1, c.n - 1) ∧
      parts.Pairwise (fun a b => a.ctl = .master ∧ b.ctl = .slave) ∧
      (∀ p ∈ parts, p.lo = max cx0 (ctlSpan c p.ctl).1 ∧ p.hi = min cx1 (ctlSpan c p.ctl).2) ∧
      (∀ ctl, (∃ p ∈ parts, p.ctl = ctl) ↔ cx0 ≤ (ctlSpan c ctl).2 ∧ (ctlSpan c ctl).1 ≤ cx1) ∧
      parts ≠ [] ∧ (parts.length = 2 ↔ cx0 ≤ c.ovl ∧ c.ovl ≤ cx1) ∧
      (∀ g, cx0 ≤ g → g ≤ cx1 → ∃ p ∈ parts, p.lo ≤ g ∧ g ≤ p.hi)

/-- 42_geometry.md R150, R151: the controller columns of a range in the controller's span, the slave's the mirror of
the global ones. In stream order they ascend one by one from `clo` to `chi`, and the addressing commands start the
column window at `clo` and end it at `chi`, start the row window at the last row and end it at the first, and set the
cursors to `clo` and the last row. -/
def Obligations.ControllerColumnsAscend : Prop :=
  ∀ (c : Config) (ctl : Ctl) (glo ghi rlo rhi : Nat), c.wf = true → glo ≤ ghi → (ctlSpan c ctl).1 ≤ glo →
    ghi ≤ (ctlSpan c ctl).2 →
    let column := fun g : Nat => match ctl with
      | .master => g
      | .slave => (c.n - c.m) - (g - (c.m - 1))
    let clo := match ctl with
      | .master => glo
      | .slave => column ghi
    let chi := match ctl with
      | .master => ghi
      | .slave => column glo
    (∀ g, glo ≤ g → g ≤ ghi → ctlCol c ctl g = column g) ∧ chi = clo + (ghi - glo) ∧ chi < c.n ∧ (c.encs.colwin = .std → chi < 256) ∧
      (colsUp ctl glo ghi).map (ctlCol c ctl) = (List.range (ghi - glo + 1)).map (fun k => clo + k) ∧
      addr c ctl glo ghi rlo rhi =
        [.entry ctl (c.entryData ctl), .colwin ctl clo chi, .rowwin ctl (BitVec.ofNat 16 rhi) (BitVec.ofNat 16 rlo),
          .colcur ctl clo, .rowcur ctl (BitVec.ofNat 16 rhi)]

/-- 42_geometry.md R153: the stream of a region lists each of its (row, column) pairs once and nothing else; rows go
from the last to the first, the master's columns up and the slave's down; with COL_MAJOR the column is the outer
index, with ROW_MAJOR the row. -/
def Obligations.StreamListsRegionOnce : Prop :=
  ∀ (c : Config) (ctl : Ctl) (glo ghi rlo rhi : Nat), glo ≤ ghi → rlo ≤ rhi →
    let l := stream c ctl glo ghi rlo rhi
    let column := fun k : Nat => match ctl with
      | .master => glo + k
      | .slave => ghi - k
    l.length = (ghi - glo + 1) * (rhi - rlo + 1) ∧ l.Nodup ∧
      (∀ r g, (r, g) ∈ l ↔ rlo ≤ r ∧ r ≤ rhi ∧ glo ≤ g ∧ g ≤ ghi) ∧
      (c.order = .colMajor → ∀ k j, k ≤ ghi - glo → j ≤ rhi - rlo →
        l[k * (rhi - rlo + 1) + j]? = some (rhi - j, column k)) ∧
      (c.order = .rowMajor → ∀ k j, k ≤ ghi - glo → j ≤ rhi - rlo →
        l[j * (ghi - glo + 1) + k]? = some (rhi - j, column k))

/-- 42_geometry.md R156: where a region covers the overlap column, both controllers' streams hold for it the same
bytes, from the same source, in the same order. -/
def Obligations.OverlapColumnSentTwice : Prop :=
  ∀ (c : Config) (glo ghi rlo rhi : Nat) (smp : Nat → Nat → Byte), glo ≤ c.ovl → c.ovl ≤ ghi → rlo ≤ rhi →
    let bytes := fun (ctl : Ctl) (lo hi : Nat) =>
      ((stream c ctl lo hi rlo rhi).filter fun rg => rg.2 == c.ovl).map fun rg => smp rg.1 rg.2
    bytes .master glo c.ovl = bytes .slave c.ovl ghi ∧
      bytes .master glo c.ovl = (rowsDown rlo rhi).map fun r => smp r c.ovl

/-! ### Refresh and dispatch -/

/-- 43_refresh.md R182: the plane data bytes of a full refresh and of a partial refresh. -/
def Obligations.PlaneByteCounts : Prop :=
  ∀ c : Config, c.wf = true →
    (∀ f : Nat → Byte, planeByteCount (fullOf c f) = 2 * (c.m + (c.n - c.m + 1)) * c.h) ∧
    (∀ (g : Region) (new : Nat → Nat → Byte) (old : Nat → Byte), g.cx0 ≤ g.cx1 → g.cx1 < c.n → g.ry0 ≤ g.ry1 →
      planeByteCount (partialOf c g new old) =
        2 * (g.cx1 - g.cx0 + 1 + (if g.cx0 ≤ c.ovl ∧ c.ovl ≤ g.cx1 then 1 else 0)) * (g.ry1 - g.ry0 + 1))

/-- 44_orchestrator.md R206, 43_refresh.md R177: with the block ready, FRM_LEGACY and FRM_FULL_PARTIAL append the
partial refresh of the whole panel, NEW from the image and OLD from PREV as it was, and PREV becomes the image;
nothing else changes but the dispatch's own registers. [The model's own: the form of `pq` and `dq`, log 9, `draining`,
log 10, an action's PREV computed when its dispatch begins, log 11.] -/
def Obligations.PartialFrameDispatch : Prop :=
  ∀ (s : State) (img old : Nat → Byte), s.cfg.wf = true → Mem.wf (some s.cfg.white) s.prev = true → s.ready = true →
    s.shows old →
    (s.holdsImage 0 img → ∃ t, exec .frmLegacy s = .next t ∧
      t.pq = s.pq ++ partialOf s.cfg { cx0 := 0, cx1 := s.cfg.n - 1, ry0 := 0, ry1 := s.cfg.h - 1 } (imgOf s.cfg img) old ∧
      t.shows img ∧
      t = { s with
        pq := t.pq, prev := t.prev, waitFail := false, fShape := .legacy, fFlags := 0, draining := true }) ∧
    (s.holdsImage 1 img → ∀ flags : Byte, ∃ t, exec (.frmFullPartial flags) s = .next t ∧
      t.pq = s.pq ++ partialOf s.cfg { cx0 := 0, cx1 := s.cfg.n - 1, ry0 := 0, ry1 := s.cfg.h - 1 } (imgOf s.cfg img) old ∧
      t.shows img ∧
      t = { s with
        pq := t.pq, prev := t.prev, waitFail := false, fShape := .full, fFlags := flags, draining := true })

/-- 44_orchestrator.md R207: with the block ready, FRM_FULL_FORCE appends a full refresh of white and a full refresh
of the image, and PREV becomes the image; nothing else changes but the dispatch's own registers. [The model's own: the
form of `pq` and `dq`, log 9, `draining`, log 10, an action's PREV computed when its dispatch begins, log 11.] -/
def Obligations.ForcedFrameDispatch : Prop :=
  ∀ (s : State) (img : Nat → Byte) (flags : Byte), s.cfg.wf = true → Mem.wf (some s.cfg.white) s.prev = true →
    s.ready = true → s.holdsImage 1 img →
    ∃ t, exec (.frmFullForce flags) s = .next t ∧
      t.pq = s.pq ++ (fullOf s.cfg (fun _ => s.cfg.white) ++ fullOf s.cfg img) ∧ t.shows img ∧
      t = { s with
        pq := t.pq, prev := t.prev, waitFail := false, fShape := .full, fFlags := flags, draining := true }

/-- 44_orchestrator.md R208, R210, 42_geometry.md R145 to R147: with the block ready and the rectangle accepted,
FRM_RECT_PARTIAL appends the partial refresh of the clamped rectangle, NEW from the rectangle's data and OLD from PREV
as it was, and exactly the clamped extent of PREV is replaced by the data; nothing else changes but the dispatch's own
registers. [The model's own: the form of `pq` and `dq`, log 9, `draining`, log 10, an action's PREV computed when its
dispatch begins, log 11.] -/
def Obligations.PartialRectDispatch : Prop :=
  ∀ (s : State) (flags : Byte) (x y w h : Half) (dat old : Nat → Byte) (g : Region), s.cfg.wf = true →
    Mem.wf (some s.cfg.white) s.prev = true → s.ready = true → s.shows old →
    s.holdsRect (w.toNat / 8 * h.toNat) dat → validate s.cfg x y w h = true →
    g = rectCols (clamp s.cfg x y w h) →
    ∃ t, exec (.frmRectPartial flags x y w h) s = .next t ∧
      t.pq = s.pq ++ partialOf s.cfg g (rectOf s.cfg g (w.toNat / 8) dat) old ∧
      t.shows (patchedOf s.cfg g (w.toNat / 8) dat old) ∧
      t = { s with
        pq := t.pq, prev := t.prev, waitFail := false, fShape := .rect, fFlags := flags, fX := x, fY := y, fW := w, fH := h,
        draining := true }

/-- 44_orchestrator.md R209, R210: with the block ready and the rectangle accepted, FRM_RECT_FORCE patches PREV and
appends a full refresh of white and a full refresh of the patched PREV; nothing else changes but the dispatch's own
registers. [The model's own: the form of `pq` and `dq`, log 9, `draining`, log 10, an action's PREV computed when its
dispatch begins, log 11.] -/
def Obligations.ForcedRectDispatch : Prop :=
  ∀ (s : State) (flags : Byte) (x y w h : Half) (dat old : Nat → Byte) (g : Region), s.cfg.wf = true →
    Mem.wf (some s.cfg.white) s.prev = true → s.ready = true → s.shows old →
    s.holdsRect (w.toNat / 8 * h.toNat) dat → validate s.cfg x y w h = true →
    g = rectCols (clamp s.cfg x y w h) →
    ∃ t, exec (.frmRectForce flags x y w h) s = .next t ∧
      t.pq = s.pq ++ (fullOf s.cfg (fun _ => s.cfg.white) ++
        fullOf s.cfg (patchedOf s.cfg g (w.toNat / 8) dat old)) ∧
      t.shows (patchedOf s.cfg g (w.toNat / 8) dat old) ∧
      t = { s with
        pq := t.pq, prev := t.prev, waitFail := false, fShape := .rect, fFlags := flags, fX := x, fY := y, fW := w, fH := h,
        draining := true }

/-- 44_orchestrator.md R208, R209, 60_exceptions.md R236, D28: a rectangle that VALIDATE rejects leaves PREV
unchanged; FRM_RECT_PARTIAL appends nothing, FRM_RECT_FORCE still clears and refreshes PREV as it was. [The model's
own: the form of `pq` and `dq`, log 9, `draining`, log 10.] -/
def Obligations.InvalidRectangleDispatch : Prop :=
  ∀ (s : State) (flags : Byte) (x y w h : Half) (old : Nat → Byte), s.cfg.wf = true → s.ready = true → s.shows old →
    validate s.cfg x y w h = false →
    exec (.frmRectPartial flags x y w h) s = .next { s with
      waitFail := false, fShape := .rect, fFlags := flags, fX := x, fY := y, fW := w, fH := h, draining := true } ∧
    exec (.frmRectForce flags x y w h) s = .next { s with
      pq := s.pq ++ (fullOf s.cfg (fun _ => s.cfg.white) ++ fullOf s.cfg old)
      waitFail := false, fShape := .rect, fFlags := flags, fX := x, fY := y, fW := w, fH := h, draining := true }

/-- 44_orchestrator.md R204, 60_exceptions.md R237: BADSHAPE writes the descriptor, renders nothing and does not write
PREV. [The model's own: `draining`, log 10.] -/
def Obligations.BadShapeDispatch : Prop :=
  ∀ (s : State) (len : Word) (flags : Byte) (x y w h : Half),
    exec (.badshape len (.full flags)) s = .next { s with
      waitFail := false, fShape := .badshape, fFlags := flags, draining := true } ∧
    exec (.badshape len (.rect flags x y w h)) s = .next { s with
      waitFail := false, fShape := .badshape, fFlags := flags, fX := x, fY := y, fW := w, fH := h, draining := true }

/-- 44_orchestrator.md R205, 60_exceptions.md R238: while not ready, every frame kind is decoded and nothing else: no
panel operation, no PREV write. [The model's own: `draining`, log 10.] -/
def Obligations.NotReadyDispatch : Prop :=
  ∀ (s : State) (flags : Byte) (x y w h : Half), s.ready = false →
    exec .frmLegacy s = .next { s with waitFail := false, fShape := .legacy, fFlags := 0, draining := true } ∧
    exec (.frmFullPartial flags) s = .next { s with
      waitFail := false, fShape := .full, fFlags := flags, draining := true } ∧
    exec (.frmFullForce flags) s = .next { s with
      waitFail := false, fShape := .full, fFlags := flags, draining := true } ∧
    exec (.frmRectPartial flags x y w h) s = .next { s with
      waitFail := false, fShape := .rect, fFlags := flags, fX := x, fY := y, fW := w, fH := h, draining := true } ∧
    exec (.frmRectForce flags x y w h) s = .next { s with
      waitFail := false, fShape := .rect, fFlags := flags, fX := x, fY := y, fW := w, fH := h, draining := true }

/-- 43_refresh.md R180, 44_orchestrator.md R214 (a): dispatching one FRM_FULL_FORCE image in two states that may
differ in PREV and in everything else but the parameters appends the same operations, with every OLD-plane byte 00,
and leaves PREV with the same bytes. [The model's own: the form of `pq` and `dq`, log 9, an action's PREV computed
when its dispatch begins, log 11.] -/
def Obligations.ForcedFrameIsIdempotent : Prop :=
  ∀ (s1 s2 : State) (img : Nat → Byte) (f1 f2 : Byte), s1.cfg = s2.cfg → s1.cfg.wf = true →
    Mem.wf (some s1.cfg.white) s1.prev = true → Mem.wf (some s2.cfg.white) s2.prev = true →
    s1.ready = true → s2.ready = true → s1.holdsImage 1 img → s2.holdsImage 1 img →
    ∃ t1 t2 ops, exec (.frmFullForce f1) s1 = .next t1 ∧ exec (.frmFullForce f2) s2 = .next t2 ∧
      t1.pq = s1.pq ++ ops ∧ t2.pq = s2.pq ++ ops ∧ (∀ a, t1.prevByte a = t2.prevByte a) ∧
      ∀ ctl bytes, .plane ctl .old bytes ∈ ops → ∀ b ∈ bytes, b = 0x00#8

/-- 43_refresh.md R181, 44_orchestrator.md R214 (b): a rectangle partial refresh after a full refresh of `f0` takes
its OLD bytes from exactly `f0`, and leaves PREV equal to `f0` with the clamped rectangle overwritten. [The model's
own: the form of `pq` and `dq`, log 9, an action's PREV computed when its dispatch begins, log 11.] -/
def Obligations.PartialAfterFull : Prop :=
  ∀ (s t u : State) (f0 dat : Nat → Byte) (flags flags2 : Byte) (x y w h : Half) (g : Region), s.cfg.wf = true →
    Mem.wf (some s.cfg.white) s.prev = true → s.ready = true → s.holdsImage 1 f0 → exec (.frmFullForce flags) s = .next t →
    u.cfg = t.cfg → u.prev = t.prev → u.ready = true → u.holdsRect (w.toNat / 8 * h.toNat) dat →
    validate u.cfg x y w h = true → g = rectCols (clamp u.cfg x y w h) →
    ∃ v, exec (.frmRectPartial flags2 x y w h) u = .next v ∧
      v.pq = u.pq ++ partialOf u.cfg g (rectOf u.cfg g (w.toNat / 8) dat) f0 ∧
      v.shows (patchedOf u.cfg g (w.toNat / 8) dat f0)

/-- 44_orchestrator.md R211, R212, R213, 60_exceptions.md R239: when the operations of a dispatch have all been
performed, `last_result` is written with the first of NOT_READY, REJECTED, HW_TIMEOUT and OK that holds, and `4F 4B`
is sent, whatever the result. [The model's own: `env`, log 6, the form of `pq` and `dq`, log 9, `draining`, log 10.] -/
def Obligations.DispatchEndsWithResult : Prop :=
  ∀ s : State, s.phase = .dispatch → s.draining = true → s.pq = [] → s.dq = [] → s.edge.rst = false →
    ∃ r, step s = .next { s.tick with
        lastResult := r, draining := false, ackQ := [0x4F#8, 0x4B#8], phase := .ack } ∧
      (s.ready = false → r = .notReady) ∧
      (s.ready = true →
        (s.fShape = .badshape ∨ (s.fShape = .rect ∧ validate s.cfg s.fX s.fY s.fW s.fH = false)) → r = .rejected) ∧
      (s.ready = true →
        ¬ (s.fShape = .badshape ∨ (s.fShape = .rect ∧ validate s.cfg s.fX s.fY s.fW s.fH = false)) →
        (s.waitFail = true → r = .hwTimeout) ∧ (s.waitFail = false → r = .ok))

/-! ### Panel port -/

/-- 30_encoding.md R88, 42_geometry.md R151, R152, R154, 43_refresh.md R171: the command transfers with one form. Each
sends its opcode and leaves its data bytes as the next transfers; nothing else changes. [The model's own: the port
records, log 8, the form of `pq` and `dq`, log 9.] -/
def Obligations.SingleCommandsSent : Prop :=
  ∀ (s : State) (d : Byte),
    exec .opSwreset s = .next { s with panelOut := .cmd s.cfg.opcodes.swreset :: s.panelOut } ∧
    exec (.opBorder d) s = .next { s with panelOut := .cmd s.cfg.opcodes.border :: s.panelOut, dq := d :: s.dq } ∧
    exec (.opTempsrc d) s = .next { s with panelOut := .cmd s.cfg.opcodes.tempsrc :: s.panelOut, dq := d :: s.dq } ∧
    exec (.opUpdate d) s = .next { s with panelOut := .cmd s.cfg.opcodes.update :: s.panelOut, dq := d :: s.dq } ∧
    exec .opActivate s = .next { s with panelOut := .cmd s.cfg.opcodes.activate :: s.panelOut }

/-- 30_encoding.md R88, R89, 42_geometry.md R151, R152, R154: the commands with a master and a slave form. Each sends
the opcode of its controller and leaves its data bytes as the next transfers; nothing else changes. The data bytes of
a window or a cursor are those of its `ENC_*` function: R152's, low byte first, or the deployment's. [The model's own:
the port records, log 8, the form of `pq` and `dq`, log 9, a deployment's `ENC_*` functions as tables, log 13.] -/
def Obligations.ControllerCommandsSent : Prop :=
  ∀ (s : State) (d : Byte) (m n : Nat) (u v : Half) (bytes : List Byte),
    let sent := fun (op : Byte) (data : List Byte) =>
      (.next { s with panelOut := .cmd op :: s.panelOut, dq := data ++ s.dq } : Result)
    let o := s.cfg.opcodes
    let e := s.cfg.encs
    exec (.opEntryM d) s = sent o.entryM [d] ∧ exec (.opEntryS d) s = sent o.entryS [d] ∧
    exec (.opColwinM m n) s = sent o.colwinM (encColwin e m n) ∧ exec (.opColwinS m n) s = sent o.colwinS (encColwin e m n) ∧
    exec (.opRowwinM u v) s = sent o.rowwinM (encRowwin e u v) ∧ exec (.opRowwinS u v) s = sent o.rowwinS (encRowwin e u v) ∧
    exec (.opColcurM m) s = sent o.colcurM (encColcur e m) ∧ exec (.opColcurS m) s = sent o.colcurS (encColcur e m) ∧
    exec (.opRowcurM u) s = sent o.rowcurM (encRowcur e u) ∧ exec (.opRowcurS u) s = sent o.rowcurS (encRowcur e u) ∧
    exec (.opNewM bytes) s = sent o.newM bytes ∧ exec (.opNewS bytes) s = sent o.newS bytes ∧
    exec (.opOldM bytes) s = sent o.oldM bytes ∧ exec (.opOldS bytes) s = sent o.oldS bytes ∧
    (e.colwin = .std → encColwin e m n = [BitVec.ofNat 8 m, BitVec.ofNat 8 n]) ∧
    (e.rowwin = .std → encRowwin e u v =
      [BitVec.ofNat 8 u.toNat, BitVec.ofNat 8 (u.toNat / 256), BitVec.ofNat 8 v.toNat, BitVec.ofNat 8 (v.toNat / 256)]) ∧
    (e.colcur = .std → encColcur e m = [BitVec.ofNat 8 m]) ∧
    (e.rowcur = .std → encRowcur e u = [BitVec.ofNat 8 u.toNat, BitVec.ofNat 8 (u.toNat / 256)]) ∧
    (∀ rows, e.colwin = .table (((m, n), bytes) :: rows) → encColwin e m n = bytes) ∧
    (∀ rows, e.rowwin = .table (((u, v), bytes) :: rows) → encRowwin e u v = bytes) ∧
    (∀ rows, e.colcur = .table ((m, bytes) :: rows) → encColcur e m = bytes) ∧
    (∀ rows, e.rowcur = .table ((u, bytes) :: rows) → encRowcur e u = bytes)

/-- 30_encoding.md R90, 43_refresh.md R175, R183: a trigger completes, and the operations performed and still to come
are `TRIG(kind)` and then its wait, ahead of what was queued; nothing but the port record and the queue changes. [The
model's own: the port records, log 8, the form of `pq` and `dq`, log 9.] -/
def Obligations.TriggerThenWait : Prop :=
  ∀ s : State, s.dq = [] →
    (∃ t, exec .trigFull s = .next t ∧ t = { s with panelOut := t.panelOut, pq := t.pq } ∧
      t.panelOut.reverse ++ t.pending = s.panelOut.reverse ++
        (match s.cfg.trigForm with
          | .split => [.cmd s.cfg.opcodes.update, .data s.cfg.updFull, .cmd s.cfg.opcodes.activate]
          | .single f _ => [.cmd f]) ++ .wait .full :: s.pending) ∧
    (∃ t, exec .trigPart s = .next t ∧ t = { s with panelOut := t.panelOut, pq := t.pq } ∧
      t.panelOut.reverse ++ t.pending = s.panelOut.reverse ++
        (match s.cfg.trigForm with
          | .split => [.cmd s.cfg.opcodes.update, .data s.cfg.updPart, .cmd s.cfg.opcodes.activate]
          | .single _ p => [.cmd p]) ++ .wait .part :: s.pending)

/-- 43_refresh.md R170, R185, 60_exceptions.md R235: the reset pulse and the end of a wait; a wait that times out sets
`wait_fail` and nothing clears it here. [The model's own: the port records, log 8.] -/
def Obligations.ResetPulseAndWait : Prop :=
  ∀ (s : State) (b : WaitBound),
    exec .rst s = .next { s with panelOut := .rst :: s.panelOut } ∧
    exec (.wait b true) s = .next { s with panelOut := .wait b :: s.panelOut } ∧
    exec (.wait b false) s = .next { s with panelOut := .wait b :: s.panelOut, waitFail := true }

/-- 43_refresh.md R170, 60_exceptions.md R240, R241: with a wait at the head of the queue, an idle sample ends it with
success even if the bound is reached at the same sample, a busy sample at the bound ends it with failure, and else it
goes on. [The model's own: `env`, log 6, the port records, log 8, the form of `pq` and `dq`, log 9.] -/
def Obligations.WaitStep : Prop :=
  ∀ (s : State) (b : WaitBound) (ops : List PanelOp), s.panelActive = true → s.edge.rst = false → s.dq = [] →
    s.pq = .wait b :: ops →
    (s.edge.busyIdle = true → step s = .next { s.tick with pq := ops, panelOut := .wait b :: s.panelOut }) ∧
    (s.edge.busyIdle = false → s.edge.busyTimeout = true →
      step s = .next { s.tick with pq := ops, panelOut := .wait b :: s.panelOut, waitFail := true }) ∧
    (s.edge.busyIdle = false → s.edge.busyTimeout = false → step s = .next s.tick)

/-- 43_refresh.md R170, R184: the sampling loop ends on the first idle sample before the bound, or on the first busy
sample taken at the bound, and never later: a wait of bound `t` polled every `poll` takes at most `t / poll + 2`
samples. -/
def Obligations.BusyWaitIsBounded : Prop :=
  ∀ (t poll : Nat) (samples : List Bool), 0 < poll →
    (t / poll + 2 ≤ samples.length → waitIdle t poll 0 samples ≠ none) ∧
    (waitIdle t poll 0 samples = some true ↔
      ∃ k, samples[k]? = some false ∧ ∀ j, j < k → samples[j]? = some true ∧ j * poll < t)

/-- 20_memory.md R74, 10_state.md R43, 43_refresh.md R185: while the panel port works, a step without reset changes
nothing but the inputs, the queue, the port record and `wait_fail`, and the operations performed and still to come
stay one and the same sequence: they are performed in the order in which they were appended. With `pnl_ready` the next
data byte is transferred, and nothing else changes; without it, a data byte and a command byte wait. [The model's own:
`env`, log 6, the port records, log 8, the form of `pq` and `dq`, log 9.] -/
def Obligations.PanelOperationsKeepOrder : Prop :=
  ∀ s : State, s.panelActive = true → s.edge.rst = false →
    ((s.dq ≠ [] ∨ s.pq ≠ []) →
      ∃ t, step s = .next t ∧ t.panelOut.reverse ++ t.pending = s.panelOut.reverse ++ s.pending ∧
        t = { s.tick with pq := t.pq, dq := t.dq, panelOut := t.panelOut, waitFail := t.waitFail }) ∧
    (∀ d ds, s.dq = d :: ds →
      (s.edge.pnlReady = true → step s = .next { s.tick with dq := ds, panelOut := .data d :: s.panelOut }) ∧
      (s.edge.pnlReady = false → step s = .next s.tick)) ∧
    (∀ op ops, s.dq = [] → s.pq = op :: ops → s.edge.pnlReady = false → (∀ b, op ≠ .wait b) → op ≠ .rst →
      (∀ k, op = .trig k → s.cfg.trigForm ≠ .split) → step s = .next s.tick)

/-- 70_reset_and_hazards.md R272, 10_state.md R43: a step performs at most one panel operation and takes at most one
host byte and one acknowledgement byte; the records of the ports only grow. [The model's own: `hostQ`, log 7, the port
records, log 8.] -/
def Obligations.OneTransferPerStep : Prop :=
  ∀ s t : State, step s = .next t →
    (t.panelOut = s.panelOut ∨ ∃ op, t.panelOut = op :: s.panelOut) ∧
    (t.ackOut = s.ackOut ∨ ∃ b, t.ackOut = b :: s.ackOut) ∧
    (t.hostQ = s.hostQ ∨ ∃ b, s.hostQ = b :: t.hostQ)

/-- 10_state.md R41 to R45, 60_exceptions.md R240: the outputs. The receive, acknowledgement and panel ports are never
active together; `rx_ready` is 1 exactly in RECEIVE, and `tx_valid` exactly in ACK with the head of `ack_q` offered.
The panel port offers the next operation, if it is a command or a data byte, with `pnl_dc` telling which, and nothing
else; `pnl_rst_n` is 1 but in the step that performs a reset pulse. The status outputs are the codes of `phase`,
`rx_state`, `ready` and `last_result`. [The model's own: the form of `pq` and `dq`, and the step in which a trigger in
the split form puts its operations at the head of the queue, log 9, a pulse inside one step, log 21.] -/
def Obligations.PortsAreExclusive : Prop :=
  ∀ s : State, s.Inv →
    let o := s.outputs
    (o.rxReady = true ↔ s.phase = .receive) ∧ (o.txValid = true ↔ s.phase = .ack) ∧ o.txData = s.ackQ.head? ∧
      (o.pnlValid = true → o.rxReady = false ∧ o.txValid = false ∧ s.panelActive = true ∧
        (s.pending.head? = o.pnlData.map fun b => if o.pnlDc then .data b else .cmd b)) ∧
      (∀ b, s.pending.head? = some (.data b) → o.pnlValid = true ∧ o.pnlDc = true ∧ o.pnlData = some b) ∧
      (∀ b, s.pending.head? = some (.cmd b) → (s.cfg.trigForm = .split → ∀ k ops, s.pq ≠ .trig k :: ops) →
        o.pnlValid = true ∧ o.pnlDc = false ∧ o.pnlData = some b) ∧
      o.pnlRstN = true ∧
      (∀ e : Edge, (portOutputs e s).pnlRstN = false ↔ e.rst = false ∧ s.pending.head? = some .rst) ∧
      (∀ e : Edge, (portOutputs e s).pnlRstN = false → (portOutputs e s).pnlValid = false) ∧
      o.stPhase = (match s.phase with | .bringup => 0 | .receive => 1 | .dispatch => 2 | .ack => 3) ∧
      o.stRxState = (match s.rxState with | .seekMagic => 0 | .readLength => 1 | .readPayload => 2 | .readCrc => 3) ∧
      o.stReady = s.ready ∧
      o.stResult = (match s.lastResult with | .none => 0 | .ok => 1 | .rejected => 2 | .hwTimeout => 3 | .notReady => 4)

/-! ### Bring-up, reset and the whole machine -/

/-- 10_state.md R46, 43_refresh.md R171, 70_reset_and_hazards.md R260: the reset values the spec gives, of every
register, and the panel operations of the bring-up sequence in `pq`. RXBUF holds no byte and PREV is all WHITE. The
ports and the status outputs are at their reset levels, on the release of reset and while it is asserted. -/
def Obligations.ResetValues : Prop :=
  ∀ c : Config,
    let s := State.resetOf c
    let levels := fun o : Outputs => o.rxReady = false ∧ o.txValid = false ∧ o.pnlValid = false ∧ o.pnlRstN = true ∧
      o.stPhase = 0 ∧ o.stRxState = 0 ∧ o.stReady = false ∧ o.stResult = 0
    s.cfg = c ∧ s.rxState = .seekMagic ∧ s.winCnt = 0 ∧ s.fldAcc = 0 ∧ s.fldCnt = 0 ∧ s.frmLen = 0 ∧ s.payCnt = 0 ∧
      s.crc = 0xFFFFFFFF#32 ∧ s.phase = .bringup ∧ s.ready = false ∧ s.lastResult = .none ∧ s.ackQ = [] ∧
      s.waitFail = false ∧ s.buStage = false ∧ s.fShape.code = 0 ∧ s.fFlags = 0 ∧ s.fX = 0 ∧ s.fY = 0 ∧ s.fW = 0 ∧
      s.fH = 0 ∧ (∀ a, s.rxByte a = none) ∧ (∀ a, a < c.fb → s.prevByte a = some c.white) ∧
      s.pending = [.rst, .wait .init, .cmd c.opcodes.swreset, .wait .init, .cmd c.opcodes.border, .data c.borderData,
        .cmd c.opcodes.tempsrc, .data c.tempData] ∧
      levels s.outputs ∧ ∀ (e : Edge) (any : State), e.rst = true → levels (portOutputs e any)

/-- 60_exceptions.md R240, 70_reset_and_hazards.md R260, R261: an asserted reset wins over everything, in every state,
and every state element the spec gives a reset value takes it; the window's bytes, which have none, are left open; the
parameters stay (R8). [The model's own: `env`, log 6, `hostQ`, log 7, the port records, log 8, `draining` false, log
10.] -/
def Obligations.ResetWins : Prop :=
  ∀ s : State, s.edge.rst = true → ∃ t, step s = .next t ∧
    t = { State.resetOf s.cfg with
      env := s.env.tail, hostQ := s.hostQ, panelOut := s.panelOut, ackOut := s.ackOut }.withWindowOf t

/-- 43_refresh.md R172, R173, 70_reset_and_hazards.md R263: the end of bring-up. After the initialisation sequence
`ready` is the complement of `wait_fail`; when ready and COLD_CLEAR, the cold-start clear is queued and bring-up goes
on; else, and after the clear, the block receives, and a failed clear is recorded. [The model's own: `env`, log 6, the
form of `pq` and `dq`, log 9.] -/
def Obligations.BringupEnds : Prop :=
  ∀ s : State, s.cfg.wf = true → s.phase = .bringup → s.pq = [] → s.dq = [] → s.edge.rst = false →
    (s.buStage = false → s.waitFail = false → s.cfg.coldClear = true →
      step s = .next { s.tick with
        ready := true, buStage := true, waitFail := false, pq := fullOf s.cfg (fun _ => s.cfg.white) }) ∧
    (s.buStage = false → s.waitFail = false → s.cfg.coldClear = false →
      step s = .next { s.tick with ready := true, phase := .receive }) ∧
    (s.buStage = false → s.waitFail = true → step s = .next { s.tick with ready := false, phase := .receive }) ∧
    (s.buStage = true → s.waitFail = false → step s = .next { s.tick with phase := .receive }) ∧
    (s.buStage = true → s.waitFail = true →
      step s = .next { s.tick with lastResult := .hwTimeout, phase := .receive })

/-- 00_scope.md R8, 10_state.md R29, 44_orchestrator.md R213, 70_reset_and_hazards.md R266, 20_memory.md R78: no step
changes the parameters; without a reset, `ready` is written only at the end of the initialisation sequence of
bring-up, PREV and the descriptor registers only in DISPATCH (the model writes PREV at its start, a form R213 allows),
and RXBUF only in READ_PAYLOAD in RECEIVE. [The model's own: `env`, log 6, the form of `pq` and `dq`, log 9,
`draining`, log 10, an action's PREV computed when its dispatch begins, log 11.] -/
def Obligations.RegistersHaveOneWriter : Prop :=
  ∀ s t : State, step s = .next t → t.cfg = s.cfg ∧ (s.edge.rst = false →
    (t.ready ≠ s.ready → s.phase = .bringup ∧ s.buStage = false ∧ s.pq = [] ∧ s.dq = []) ∧
    (t.prev ≠ s.prev → s.phase = .dispatch ∧ s.draining = false ∧ s.ready = true) ∧
    (t.rxbuf ≠ s.rxbuf → s.phase = .receive ∧ s.rxState = .readPayload) ∧
    ((t.fShape, t.fFlags, t.fX, t.fY, t.fW, t.fH) ≠ (s.fShape, s.fFlags, s.fX, s.fY, s.fW, s.fH) →
      s.phase = .dispatch ∧ s.draining = false))

/-- 10_state.md R41, 70_reset_and_hazards.md R268: outside RECEIVE no host byte is taken, so none is lost; a byte is
taken only with `rx_valid`. [The model's own: `env`, log 6, `hostQ`, log 7.] -/
def Obligations.HostBytesHeldOutsideReceive : Prop :=
  ∀ s t : State, step s = .next t → t.hostQ ≠ s.hostQ →
    s.phase = .receive ∧ s.edge.rst = false ∧ s.edge.rxValid = true

/-- What is due is run: a host byte by its event, an emitted frame by its decoded kind, the head of the panel queue by
the instruction it stands for, the end of a dispatch by its acknowledgement. Each is taken from where it waited, and
the inputs of the step are consumed (10_state.md R21, R28, 30_encoding.md R91, 44_orchestrator.md R213, 43_refresh.md
R185). [The model's own: `env`, log 6, `hostQ`, log 7, the form of `pq` and `dq`, log 9, `draining`, log 10.] -/
def Obligations.StepRunsDecodedInstruction : Prop :=
  ∀ s : State, s.edge.rst = false →
    (∀ b rest, s.phase = .receive → s.edge.rxValid = true → s.hostQ = b :: rest →
      step s = exec (decodeEvent s.fldCnt (eventWord s.rxState.code b)) { s.tick with hostQ := rest }) ∧
    (∀ i, s.phase = .dispatch → s.draining = false → decodeFrame s = .ok i → step s = exec i s.tick) ∧
    (∀ op ops, s.panelActive = true → s.dq = [] → s.pq = op :: ops → (∀ b, op ≠ .wait b) →
      (s.edge.pnlReady = true ∨ op = .rst ∨ (s.cfg.trigForm = .split ∧ ∃ k, op = .trig k)) →
      step s = exec (op.instr true) { s.tick with pq := ops }) ∧
    (∀ b ops, s.panelActive = true → s.dq = [] → s.pq = .wait b :: ops →
      (s.edge.busyIdle = true ∨ s.edge.busyTimeout = true) →
      step s = exec (.wait b s.edge.busyIdle) { s.tick with pq := ops }) ∧
    (s.phase = .dispatch → s.draining = true → s.pq = [] → s.dq = [] →
      step s = exec .ackOk { s.tick with lastResult := s.result, draining := false })

/-- The reset state of a block whose parameters meet the spec's constraints meets the invariant. -/
def Obligations.ResetMeetsInvariant : Prop :=
  ∀ c : Config, c.wf = true → (State.resetOf c).Inv

/-- Every step keeps the invariant: memories canonical and in range (10_state.md R36, R37, 20_memory.md R71), the
window count (R23), the captured payload (R25, R116), the queues and the phase (R28, R31, R34, R74), readiness (R29). -/
def Obligations.StepKeepsInvariant : Prop :=
  ∀ s t : State, s.Inv → step s = .next t → t.Inv

/-- 60_exceptions.md R230, 20_memory.md R63, R71: from every state that meets the invariant a step goes on. No index
leaves its memory, no byte that holds no value is read, and nothing is refused: no condition is fatal. -/
def Obligations.InvariantStatesNeverStop : Prop :=
  ∀ s : State, s.Inv → ∃ t, step s = .next t

/-- 60_exceptions.md R245: from every state that meets the invariant, if no reset is asserted, the host takes every
acknowledgement byte, the panel completes every transfer, waits end and field timers expire, the block reaches RECEIVE
with the receiver in SEEK_MAGIC after finitely many steps, whatever bytes the host sends or does not send meanwhile.
[The model's own: `env`, log 6.] -/
def Obligations.ReturnsToReadyState : Prop :=
  ∀ s : State, s.Inv → ∃ n, ∀ env : List Edge, env.length = n → (∀ e ∈ env, e.fair = true) →
    ∃ k t, k ≤ n ∧ Host.Core.run Sys2Proof.core k { s with env := env } = .next t ∧ t.phase = .receive ∧
      t.rxState = .seekMagic
end

