-- ==== Sys2Proof/Laws/Encodings.lean ====
section
/-! SUPPORT. The window and cursor encodings (spec/42_geometry.md R152): R152's own functions, and that reading the bytes of an
operand back gives it, under R152's functions and under a deployment's. -/

namespace Sys2Proof

/-! ### Byte order -/

@[simp] theorem le16_bytes (v : Half) : le16 (loByte v) (hiByte v) = v := by
  unfold le16 loByte hiByte
  rw [BitVec.extractLsb'_append_extractLsb'_eq_extractLsb' (by rfl)]
  exact BitVec.extractLsb'_eq_self

@[simp] theorem loByte_le16 (lo hi : Byte) : loByte (le16 lo hi) = lo := BitVec.extractLsb'_append_eq_right

@[simp] theorem hiByte_le16 (lo hi : Byte) : hiByte (le16 lo hi) = hi := BitVec.extractLsb'_append_eq_left

/-! ### R152's functions -/

@[simp] theorem encColwin_std (start stop : Nat) :
    encColwin Config.stdEncs start stop = [BitVec.ofNat 8 start, BitVec.ofNat 8 stop] := rfl
@[simp] theorem encRowwin_std (start stop : Half) : encRowwin Config.stdEncs start stop = bytes16 start ++ bytes16 stop := rfl
@[simp] theorem encColcur_std (col : Nat) : encColcur Config.stdEncs col = [BitVec.ofNat 8 col] := rfl
@[simp] theorem encRowcur_std (row : Half) : encRowcur Config.stdEncs row = bytes16 row := rfl

/-! ### Any functions -/

/-- The bytes of an operand read back as it, where the function has a value at it and R152's function is read back by `undo`. -/
theorem encOperand_encValue {α : Type} [DecidableEq α] {default : α → List Byte} {undo : List Byte → Option α}
    {fits : α → Bool} {e : Enc α} {a : α} (hu : fits a = true → undo (default a) = some a)
    (hi : encInjective e = true) (ha : e.lists fits a = true) : encOperand undo e (encValue default e a) = some a := by
  cases e with
  | std => exact hu ha
  | table rows =>
    simp only [Enc.lists, List.any_eq_true, decide_eq_true_eq] at ha
    obtain ⟨row, hrow, rfl⟩ := ha
    have hmem : row.1 ∈ rows.map Prod.fst := List.mem_map_of_mem hrow
    simp only [encInjective, List.all_eq_true, decide_eq_true_eq] at hi
    simp only [encOperand, encValue]
    cases hf : (rows.map Prod.fst).find? fun b => decide (tableBytes rows b = tableBytes rows row.1) with
    | none => simpa using List.find?_eq_none.1 hf row.1 hmem
    | some b =>
      have hb := List.find?_some hf
      simp only [decide_eq_true_eq] at hb
      exact hf.trans (congrArg some (hi b (List.mem_of_find?_eq_some hf) row.1 hmem hb))

/-- An operand read from bytes is sent as those bytes, where R152's function is read back exactly. -/
theorem encValue_of_encOperand {α : Type} [DecidableEq α] {default : α → List Byte} {undo : List Byte → Option α} {e : Enc α}
    {bytes : List Byte} {a : α} (hd : undo bytes = some a → default a = bytes) (h : encOperand undo e bytes = some a) :
    encValue default e a = bytes := by
  cases e with
  | std => exact hd h
  | table rows => simpa [encValue, encOperand] using List.find?_some h

theorem undoColwin_encColwin {t : Encodings} {m n : Nat} (hi : encInjective t.colwin = true)
    (h : t.hasColwin m n = true) : undoColwin t (encColwin t m n) = some (m, n) := by
  refine encOperand_encValue (fun hf => ?_) hi h
  simp only [Bool.and_eq_true, decide_eq_true_eq] at hf
  simp [Nat.mod_eq_of_lt hf.1, Nat.mod_eq_of_lt hf.2]

theorem undoRowwin_encRowwin {t : Encodings} {u v : Half} (hi : encInjective t.rowwin = true)
    (h : t.hasRowwin u v = true) : undoRowwin t (encRowwin t u v) = some (u, v) :=
  encOperand_encValue (fun _ => by simp [bytes16]) hi h

theorem undoColcur_encColcur {t : Encodings} {m : Nat} (hi : encInjective t.colcur = true)
    (h : t.hasColcur m = true) : undoColcur t (encColcur t m) = some m := by
  refine encOperand_encValue (fun hf => ?_) hi h
  simp only [decide_eq_true_eq] at hf
  simp [Nat.mod_eq_of_lt hf]

theorem undoRowcur_encRowcur {t : Encodings} {u : Half} (hi : encInjective t.rowcur = true)
    (h : t.hasRowcur u = true) : undoRowcur t (encRowcur t u) = some u :=
  encOperand_encValue (fun _ => by simp [bytes16]) hi h

theorem encColwin_undoColwin {t : Encodings} {bytes : List Byte} {a : Nat × Nat} (h : undoColwin t bytes = some a) :
    encColwin t a.1 a.2 = bytes :=
  encValue_of_encOperand (fun hd => by split at hd <;> simp_all; simp [← hd]) h

theorem encRowwin_undoRowwin {t : Encodings} {bytes : List Byte} {a : Half × Half} (h : undoRowwin t bytes = some a) :
    encRowwin t a.1 a.2 = bytes :=
  encValue_of_encOperand (fun hd => by split at hd <;> simp_all; simp [← hd, bytes16]) h

theorem encColcur_undoColcur {t : Encodings} {bytes : List Byte} {m : Nat} (h : undoColcur t bytes = some m) :
    encColcur t m = bytes :=
  encValue_of_encOperand (fun hd => by split at hd <;> simp_all; simp [← hd]) h

theorem encRowcur_undoRowcur {t : Encodings} {bytes : List Byte} {u : Half} (h : undoRowcur t bytes = some u) :
    encRowcur t u = bytes :=
  encValue_of_encOperand (fun hd => by split at hd <;> simp_all; simp [← hd, bytes16]) h

end Sys2Proof
end

