-- ==== Sys2Proof/Laws/Memory.lean ====
section
/-! SUPPORT. Byte memories: what a read gives after a write, and the canonical form every operation keeps. -/

namespace Sys2Proof.Machine

/-! ### Canonical form -/

/-- A cell of a rising list lies above its lower bound. -/
theorem Mem.lt_of_mem_risingFrom {a : Nat} {m : Mem} (h : Mem.risingFrom a m = true) :
    ∀ c ∈ m, a < c.1 := by
  induction m generalizing a with
  | nil => simp
  | cons hd t ih =>
    obtain ⟨k, v⟩ := hd
    simp only [Mem.risingFrom, Bool.and_eq_true, decide_eq_true_eq] at h
    intro c hc
    rcases List.mem_cons.1 hc with rfl | hc
    · exact h.1
    · exact lt_trans h.1 (ih h.2 c hc)

theorem Mem.risingFrom_mono {a b : Nat} {m : Mem} (h : Mem.risingFrom b m = true) (hab : a ≤ b) :
    Mem.risingFrom a m = true := by
  cases m with
  | nil => rfl
  | cons hd t =>
    simp only [Mem.risingFrom, Bool.and_eq_true, decide_eq_true_eq] at h ⊢
    exact ⟨lt_of_le_of_lt hab h.1, h.2⟩

/-- A rising list is rising above every number below its cells. -/
theorem Mem.risingFrom_of_rising {a : Nat} {m : Mem} (h : m.rising = true) (ha : ∀ c ∈ m, a < c.1) :
    Mem.risingFrom a m = true := by
  cases m with
  | nil => rfl
  | cons hd t => simpa [Mem.risingFrom, Mem.rising] using ⟨ha hd (by simp), h⟩

theorem Mem.rising_of_risingFrom {a : Nat} {m : Mem} (h : Mem.risingFrom a m = true) : m.rising = true := by
  cases m with
  | nil => rfl
  | cons hd t => simp_all [Mem.risingFrom, Mem.rising]

theorem Mem.risingFrom_insert {b a : Nat} {v : Byte} {m : Mem} (h : Mem.risingFrom b m = true) (hb : b < a) :
    Mem.risingFrom b (Mem.insert m a v) = true := by
  induction m generalizing b with
  | nil => simp [Mem.insert, Mem.risingFrom, hb]
  | cons hd t ih =>
    obtain ⟨k, w⟩ := hd
    simp only [Mem.risingFrom, Bool.and_eq_true, decide_eq_true_eq] at h
    unfold Mem.insert
    split_ifs with h1 h2
    · simp [Mem.risingFrom, hb, h1, h.2]
    · subst h2; simp [Mem.risingFrom, hb, h.2]
    · simp [Mem.risingFrom, h.1, ih h.2 (by omega)]

theorem Mem.risingFrom_erase {b a : Nat} {m : Mem} (h : Mem.risingFrom b m = true) :
    Mem.risingFrom b (Mem.erase m a) = true := by
  induction m generalizing b with
  | nil => rfl
  | cons hd t ih =>
    obtain ⟨k, w⟩ := hd
    simp only [Mem.risingFrom, Bool.and_eq_true, decide_eq_true_eq] at h
    unfold Mem.erase
    split_ifs with h1
    · exact Mem.risingFrom_mono h.2 h.1.le
    · simp [Mem.risingFrom, h.1, ih h.2]

theorem Mem.rising_insert {a : Nat} {v : Byte} {m : Mem} (h : m.rising = true) :
    (Mem.insert m a v).rising = true := by
  cases m with
  | nil => rfl
  | cons hd t =>
    obtain ⟨k, w⟩ := hd
    unfold Mem.insert
    split_ifs with h1 h2
    · simp [Mem.rising, Mem.risingFrom, h1]; exact h
    · subst h2; exact h
    · exact Mem.risingFrom_insert h (by omega)

theorem Mem.rising_erase {a : Nat} {m : Mem} (h : m.rising = true) : (Mem.erase m a).rising = true := by
  cases m with
  | nil => rfl
  | cons hd t =>
    obtain ⟨k, w⟩ := hd
    unfold Mem.erase
    split_ifs with h1
    · exact Mem.rising_of_risingFrom h
    · exact Mem.risingFrom_erase h

theorem Mem.mem_insert {a : Nat} {v : Byte} {m : Mem} {c : Host.Cell} (h : c ∈ Mem.insert m a v) :
    c = (a, v) ∨ c ∈ m := by
  induction m with
  | nil => simpa [Mem.insert] using h
  | cons hd t ih =>
    unfold Mem.insert at h
    split_ifs at h
    · simpa using h
    · rcases List.mem_cons.1 h with h | h
      · exact .inl h
      · exact .inr (List.mem_cons_of_mem _ h)
    · rcases List.mem_cons.1 h with h | h
      · exact .inr (by simp [h])
      · exact (ih h).imp_right (List.mem_cons_of_mem _)

theorem Mem.mem_erase {a : Nat} {m : Mem} {c : Host.Cell} (h : c ∈ Mem.erase m a) : c ∈ m := by
  induction m with
  | nil => exact h
  | cons hd t ih =>
    unfold Mem.erase at h
    split_ifs at h
    · exact List.mem_cons_of_mem _ h
    · rcases List.mem_cons.1 h with h | h
      · simp [h]
      · exact List.mem_cons_of_mem _ (ih h)

theorem Mem.wf_iff {u : Option Byte} {m : Mem} :
    Mem.wf u m = true ↔ m.rising = true ∧ ∀ c ∈ m, some c.2 ≠ u := by
  simp [Mem.wf]

/-- A write keeps the canonical form. -/
theorem Mem.wf_put {u : Option Byte} {m : Mem} (h : Mem.wf u m = true) (a : Nat) (v : Byte) :
    Mem.wf u (Mem.put u m a v) = true := by
  rw [Mem.wf_iff] at h ⊢
  unfold Mem.put
  split_ifs with hv
  · exact ⟨Mem.rising_erase h.1, fun c hc => h.2 c (Mem.mem_erase hc)⟩
  · refine ⟨Mem.rising_insert h.1, fun c hc => ?_⟩
    rcases Mem.mem_insert hc with rfl | hc
    · exact hv
    · exact h.2 c hc

/-- A sequence of writes keeps the canonical form. -/
theorem Mem.wf_putAll {u : Option Byte} {m : Mem} (h : Mem.wf u m = true) (cells : List Host.Cell) :
    Mem.wf u (Mem.putAll u m cells) = true := by
  induction cells with
  | nil => exact h
  | cons c cs ih => exact Mem.wf_put ih c.1 c.2

/-- A write lists nothing new but its own address. -/
theorem Mem.mem_put {u : Option Byte} {m : Mem} {a : Nat} {v : Byte} {c : Host.Cell} (h : c ∈ Mem.put u m a v) :
    c.1 = a ∨ c ∈ m := by
  unfold Mem.put at h
  split_ifs at h
  · exact .inr (Mem.mem_erase h)
  · exact (Mem.mem_insert h).imp_left (by rintro rfl; rfl)

theorem Mem.mem_putAll {u : Option Byte} {m : Mem} {cells : List Host.Cell} {c : Host.Cell}
    (h : c ∈ Mem.putAll u m cells) : c ∈ m ∨ ∃ d ∈ cells, c.1 = d.1 := by
  induction cells with
  | nil => exact .inl h
  | cons d ds ih =>
    rcases Mem.mem_put h with h | h
    · exact .inr ⟨d, by simp, h⟩
    · exact (ih h).imp_right fun ⟨e, he, hc⟩ => ⟨e, List.mem_cons_of_mem _ he, hc⟩

/-! ### Reads after writes -/

theorem Mem.find_eq_none {m : Mem} {a : Nat} (h : ∀ c ∈ m, c.1 ≠ a) : Mem.find m a = none := by
  induction m with
  | nil => rfl
  | cons hd t ih =>
    obtain ⟨k, w⟩ := hd
    have hk : k ≠ a := h (k, w) (by simp)
    simp [Mem.find, hk, ih fun c hc => h c (List.mem_cons_of_mem _ hc)]

theorem Mem.find_insert {m : Mem} {a b : Nat} {v : Byte} :
    Mem.find (Mem.insert m a v) b = if b = a then some v else Mem.find m b := by
  induction m with
  | nil => simp [Mem.insert, Mem.find, eq_comm]
  | cons hd t ih =>
    obtain ⟨k, w⟩ := hd
    unfold Mem.insert
    split_ifs with h1 h2 <;> simp only [Mem.find]
    · subst_vars; simp
    · simp [show ¬ a = b by omega]
    · subst_vars; simp
    · simp [show ¬ a = b by omega]
      intro h; omega
    · subst_vars; simp [ih, show ¬ k = b by omega]
    · simp [*]

theorem Mem.find_erase {m : Mem} (h : m.rising = true) {a b : Nat} :
    Mem.find (Mem.erase m a) b = if b = a then none else Mem.find m b := by
  induction m with
  | nil => simp [Mem.erase, Mem.find]
  | cons hd t ih =>
    obtain ⟨k, w⟩ := hd
    have hlt := Mem.lt_of_mem_risingFrom (m := t) h
    unfold Mem.erase
    split_ifs with h1 h2 h3
    · subst_vars
      exact Mem.find_eq_none fun c hc => (hlt c hc).ne'
    · simp [Mem.find, show ¬ k = b by omega]
    · subst h3; simp [Mem.find, h1, ih (Mem.rising_of_risingFrom h)]
    · simp [Mem.find, ih (Mem.rising_of_risingFrom h), h3]

/-- A read after a write: the value written at its address, and everywhere else what was there. -/
theorem Mem.read_put {u : Option Byte} {m : Mem} (h : Mem.wf u m = true) (a b : Nat) (v : Byte) :
    Mem.read u (Mem.put u m a v) b = if b = a then some v else Mem.read u m b := by
  have hr := (Mem.wf_iff.1 h).1
  unfold Mem.put
  split_ifs with hv hb hb
  · simp [Mem.read, Mem.find_erase hr, hb, hv]
  · simp [Mem.read, Mem.find_erase hr, hb]
  · simp [Mem.read, Mem.find_insert, hb]
  · simp [Mem.read, Mem.find_insert, hb]

/-- The same for a memory whose unlisted addresses hold no value, in any form. -/
theorem Mem.read_put_none (m : Mem) (a b : Nat) (v : Byte) :
    Mem.read none (Mem.put none m a v) b = if b = a then some v else Mem.read none m b := by
  by_cases hb : b = a <;> simp [Mem.put, Mem.read, Mem.find_insert, hb]

/-- A sequence of writes leaves every address it does not write. -/
theorem Mem.read_putAll_of_notMem {u : Option Byte} {m : Mem} (h : Mem.wf u m = true) {cells : List Host.Cell}
    {a : Nat} (ha : ∀ c ∈ cells, c.1 ≠ a) : Mem.read u (Mem.putAll u m cells) a = Mem.read u m a := by
  induction cells with
  | nil => rfl
  | cons c cs ih =>
    have hc : ¬ a = c.1 := fun e => ha c (by simp) e.symm
    show Mem.read u (Mem.put u (Mem.putAll u m cs) c.1 c.2) a = _
    rw [Mem.read_put (Mem.wf_putAll h cs), if_neg hc]
    exact ih fun d hd => ha d (List.mem_cons_of_mem _ hd)

/-- Writes whose values are a function of their address: an address they write reads as that value. -/
theorem Mem.read_putAll_of_mem {u : Option Byte} {m : Mem} (h : Mem.wf u m = true) {cells : List Host.Cell}
    {f : Nat → Byte} (hf : ∀ c ∈ cells, c.2 = f c.1) {a : Nat} (ha : ∃ c ∈ cells, c.1 = a) :
    Mem.read u (Mem.putAll u m cells) a = some (f a) := by
  induction cells with
  | nil => simp at ha
  | cons c cs ih =>
    show Mem.read u (Mem.put u (Mem.putAll u m cs) c.1 c.2) a = _
    rw [Mem.read_put (Mem.wf_putAll h cs)]
    split_ifs with hc
    · rw [hf c (by simp), hc]
    · refine ih (fun d hd => hf d (List.mem_cons_of_mem _ hd)) ?_
      obtain ⟨d, hd, rfl⟩ := ha
      rcases List.mem_cons.1 hd with rfl | hd
      · exact absurd rfl hc
      · exact ⟨d, hd, rfl⟩

/-! ### The two memories -/

/-- Everything a write to RXBUF can do. -/
theorem writeRxbuf_ok {s t : State} {a : Nat} {b : Byte} (h : writeRxbuf s a b = .ok t) :
    a < s.cfg.maxlen ∧ t = { s with rxbuf := Mem.put none s.rxbuf a b } := by
  unfold writeRxbuf at h
  split_ifs at h with ha
  exact ⟨ha, (Except.ok.inj h).symm⟩

/-- A byte of RXBUF after a write. -/
theorem writeRxbuf_rxByte {s t : State} {a : Nat} {b : Byte} (h : writeRxbuf s a b = .ok t) (i : Nat) :
    t.rxByte i = if i = a then some b else s.rxByte i := by
  obtain ⟨ha, rfl⟩ := writeRxbuf_ok h
  by_cases hi : i = a
  · simp [State.rxByte, Mem.read_put_none, hi, ha]
  · simp [State.rxByte, Mem.read_put_none, hi]

/-- Everything writes to PREV can do. -/
theorem writePrev_ok {c : Config} {m n : Mem} {cells : List Host.Cell} (h : writePrev c m cells = .ok n) :
    (∀ d ∈ cells, d.1 < c.fb) ∧ n = Mem.putAll (some c.white) m cells := by
  unfold writePrev at h
  split_ifs at h with ha
  exact ⟨by simpa using ha, (Except.ok.inj h).symm⟩

/-- Writes to PREV keep its canonical form and its range. -/
theorem writePrev_wf {c : Config} {m n : Mem} {cells : List Host.Cell} (h : writePrev c m cells = .ok n)
    (hm : Mem.wf (some c.white) m = true) (hr : ∀ d ∈ m, d.1 < c.fb) :
    Mem.wf (some c.white) n = true ∧ ∀ d ∈ n, d.1 < c.fb := by
  obtain ⟨hc, rfl⟩ := writePrev_ok h
  refine ⟨Mem.wf_putAll hm cells, fun d hd => ?_⟩
  rcases Mem.mem_putAll hd with hd | ⟨e, he, hde⟩
  · exact hr d hd
  · exact hde ▸ hc e he

/-- Both memories are canonical at reset. -/
theorem State.resetOf_mem_wf (c : Config) :
    Mem.wf none (State.resetOf c).rxbuf = true ∧ Mem.wf (some c.white) (State.resetOf c).prev = true :=
  ⟨rfl, rfl⟩

end Sys2Proof.Machine
end

