-- ==== Sys2Proof/Laws/State.lean ====
section
/-! SUPPORT. One lemma for each field of State under each named update, so that no later proof unfolds a record update. -/

namespace Sys2Proof.Machine

/-! ### `resync` -/

@[simp] theorem resync_cfg (s : State) : (resync s).cfg = s.cfg := rfl
@[simp] theorem resync_rxState (s : State) : (resync s).rxState = .seekMagic := rfl
@[simp] theorem resync_win0 (s : State) : (resync s).win0 = s.win0 := rfl
@[simp] theorem resync_win1 (s : State) : (resync s).win1 = s.win1 := rfl
@[simp] theorem resync_win2 (s : State) : (resync s).win2 = s.win2 := rfl
@[simp] theorem resync_win3 (s : State) : (resync s).win3 = s.win3 := rfl
@[simp] theorem resync_winCnt (s : State) : (resync s).winCnt = 0 := rfl
@[simp] theorem resync_fldAcc (s : State) : (resync s).fldAcc = s.fldAcc := rfl
@[simp] theorem resync_fldCnt (s : State) : (resync s).fldCnt = s.fldCnt := rfl
@[simp] theorem resync_frmLen (s : State) : (resync s).frmLen = s.frmLen := rfl
@[simp] theorem resync_payCnt (s : State) : (resync s).payCnt = s.payCnt := rfl
@[simp] theorem resync_crc (s : State) : (resync s).crc = s.crc := rfl
@[simp] theorem resync_phase (s : State) : (resync s).phase = s.phase := rfl
@[simp] theorem resync_ready (s : State) : (resync s).ready = s.ready := rfl
@[simp] theorem resync_lastResult (s : State) : (resync s).lastResult = s.lastResult := rfl
@[simp] theorem resync_ackQ (s : State) : (resync s).ackQ = s.ackQ := rfl
@[simp] theorem resync_waitFail (s : State) : (resync s).waitFail = s.waitFail := rfl
@[simp] theorem resync_fShape (s : State) : (resync s).fShape = s.fShape := rfl
@[simp] theorem resync_fFlags (s : State) : (resync s).fFlags = s.fFlags := rfl
@[simp] theorem resync_fX (s : State) : (resync s).fX = s.fX := rfl
@[simp] theorem resync_fY (s : State) : (resync s).fY = s.fY := rfl
@[simp] theorem resync_fW (s : State) : (resync s).fW = s.fW := rfl
@[simp] theorem resync_fH (s : State) : (resync s).fH = s.fH := rfl
@[simp] theorem resync_pq (s : State) : (resync s).pq = s.pq := rfl
@[simp] theorem resync_dq (s : State) : (resync s).dq = s.dq := rfl
@[simp] theorem resync_buStage (s : State) : (resync s).buStage = s.buStage := rfl
@[simp] theorem resync_rxbuf (s : State) : (resync s).rxbuf = s.rxbuf := rfl
@[simp] theorem resync_prev (s : State) : (resync s).prev = s.prev := rfl
@[simp] theorem resync_draining (s : State) : (resync s).draining = s.draining := rfl
@[simp] theorem resync_env (s : State) : (resync s).env = s.env := rfl
@[simp] theorem resync_hostQ (s : State) : (resync s).hostQ = s.hostQ := rfl
@[simp] theorem resync_panelOut (s : State) : (resync s).panelOut = s.panelOut := rfl
@[simp] theorem resync_ackOut (s : State) : (resync s).ackOut = s.ackOut := rfl

/-! ### `sendAck` -/

@[simp] theorem sendAck_cfg (bytes : List Byte) (s : State) : (sendAck bytes s).cfg = s.cfg := rfl
@[simp] theorem sendAck_rxState (bytes : List Byte) (s : State) : (sendAck bytes s).rxState = s.rxState := rfl
@[simp] theorem sendAck_win0 (bytes : List Byte) (s : State) : (sendAck bytes s).win0 = s.win0 := rfl
@[simp] theorem sendAck_win1 (bytes : List Byte) (s : State) : (sendAck bytes s).win1 = s.win1 := rfl
@[simp] theorem sendAck_win2 (bytes : List Byte) (s : State) : (sendAck bytes s).win2 = s.win2 := rfl
@[simp] theorem sendAck_win3 (bytes : List Byte) (s : State) : (sendAck bytes s).win3 = s.win3 := rfl
@[simp] theorem sendAck_winCnt (bytes : List Byte) (s : State) : (sendAck bytes s).winCnt = s.winCnt := rfl
@[simp] theorem sendAck_fldAcc (bytes : List Byte) (s : State) : (sendAck bytes s).fldAcc = s.fldAcc := rfl
@[simp] theorem sendAck_fldCnt (bytes : List Byte) (s : State) : (sendAck bytes s).fldCnt = s.fldCnt := rfl
@[simp] theorem sendAck_frmLen (bytes : List Byte) (s : State) : (sendAck bytes s).frmLen = s.frmLen := rfl
@[simp] theorem sendAck_payCnt (bytes : List Byte) (s : State) : (sendAck bytes s).payCnt = s.payCnt := rfl
@[simp] theorem sendAck_crc (bytes : List Byte) (s : State) : (sendAck bytes s).crc = s.crc := rfl
@[simp] theorem sendAck_phase (bytes : List Byte) (s : State) : (sendAck bytes s).phase = .ack := rfl
@[simp] theorem sendAck_ready (bytes : List Byte) (s : State) : (sendAck bytes s).ready = s.ready := rfl
@[simp] theorem sendAck_lastResult (bytes : List Byte) (s : State) : (sendAck bytes s).lastResult = s.lastResult := rfl
@[simp] theorem sendAck_ackQ (bytes : List Byte) (s : State) : (sendAck bytes s).ackQ = bytes := rfl
@[simp] theorem sendAck_waitFail (bytes : List Byte) (s : State) : (sendAck bytes s).waitFail = s.waitFail := rfl
@[simp] theorem sendAck_fShape (bytes : List Byte) (s : State) : (sendAck bytes s).fShape = s.fShape := rfl
@[simp] theorem sendAck_fFlags (bytes : List Byte) (s : State) : (sendAck bytes s).fFlags = s.fFlags := rfl
@[simp] theorem sendAck_fX (bytes : List Byte) (s : State) : (sendAck bytes s).fX = s.fX := rfl
@[simp] theorem sendAck_fY (bytes : List Byte) (s : State) : (sendAck bytes s).fY = s.fY := rfl
@[simp] theorem sendAck_fW (bytes : List Byte) (s : State) : (sendAck bytes s).fW = s.fW := rfl
@[simp] theorem sendAck_fH (bytes : List Byte) (s : State) : (sendAck bytes s).fH = s.fH := rfl
@[simp] theorem sendAck_pq (bytes : List Byte) (s : State) : (sendAck bytes s).pq = s.pq := rfl
@[simp] theorem sendAck_dq (bytes : List Byte) (s : State) : (sendAck bytes s).dq = s.dq := rfl
@[simp] theorem sendAck_buStage (bytes : List Byte) (s : State) : (sendAck bytes s).buStage = s.buStage := rfl
@[simp] theorem sendAck_rxbuf (bytes : List Byte) (s : State) : (sendAck bytes s).rxbuf = s.rxbuf := rfl
@[simp] theorem sendAck_prev (bytes : List Byte) (s : State) : (sendAck bytes s).prev = s.prev := rfl
@[simp] theorem sendAck_draining (bytes : List Byte) (s : State) : (sendAck bytes s).draining = s.draining := rfl
@[simp] theorem sendAck_env (bytes : List Byte) (s : State) : (sendAck bytes s).env = s.env := rfl
@[simp] theorem sendAck_hostQ (bytes : List Byte) (s : State) : (sendAck bytes s).hostQ = s.hostQ := rfl
@[simp] theorem sendAck_panelOut (bytes : List Byte) (s : State) : (sendAck bytes s).panelOut = s.panelOut := rfl
@[simp] theorem sendAck_ackOut (bytes : List Byte) (s : State) : (sendAck bytes s).ackOut = s.ackOut := rfl

/-! ### `expireSeek` -/

@[simp] theorem expireSeek_cfg (s : State) : (expireSeek s).cfg = s.cfg := rfl
@[simp] theorem expireSeek_rxState (s : State) : (expireSeek s).rxState = s.rxState := rfl
@[simp] theorem expireSeek_win0 (s : State) : (expireSeek s).win0 = s.win0 := rfl
@[simp] theorem expireSeek_win1 (s : State) : (expireSeek s).win1 = s.win1 := rfl
@[simp] theorem expireSeek_win2 (s : State) : (expireSeek s).win2 = s.win2 := rfl
@[simp] theorem expireSeek_win3 (s : State) : (expireSeek s).win3 = s.win3 := rfl
@[simp] theorem expireSeek_winCnt (s : State) : (expireSeek s).winCnt = 0 := rfl
@[simp] theorem expireSeek_fldAcc (s : State) : (expireSeek s).fldAcc = s.fldAcc := rfl
@[simp] theorem expireSeek_fldCnt (s : State) : (expireSeek s).fldCnt = s.fldCnt := rfl
@[simp] theorem expireSeek_frmLen (s : State) : (expireSeek s).frmLen = s.frmLen := rfl
@[simp] theorem expireSeek_payCnt (s : State) : (expireSeek s).payCnt = s.payCnt := rfl
@[simp] theorem expireSeek_crc (s : State) : (expireSeek s).crc = s.crc := rfl
@[simp] theorem expireSeek_phase (s : State) : (expireSeek s).phase = s.phase := rfl
@[simp] theorem expireSeek_ready (s : State) : (expireSeek s).ready = s.ready := rfl
@[simp] theorem expireSeek_lastResult (s : State) : (expireSeek s).lastResult = s.lastResult := rfl
@[simp] theorem expireSeek_ackQ (s : State) : (expireSeek s).ackQ = s.ackQ := rfl
@[simp] theorem expireSeek_waitFail (s : State) : (expireSeek s).waitFail = s.waitFail := rfl
@[simp] theorem expireSeek_fShape (s : State) : (expireSeek s).fShape = s.fShape := rfl
@[simp] theorem expireSeek_fFlags (s : State) : (expireSeek s).fFlags = s.fFlags := rfl
@[simp] theorem expireSeek_fX (s : State) : (expireSeek s).fX = s.fX := rfl
@[simp] theorem expireSeek_fY (s : State) : (expireSeek s).fY = s.fY := rfl
@[simp] theorem expireSeek_fW (s : State) : (expireSeek s).fW = s.fW := rfl
@[simp] theorem expireSeek_fH (s : State) : (expireSeek s).fH = s.fH := rfl
@[simp] theorem expireSeek_pq (s : State) : (expireSeek s).pq = s.pq := rfl
@[simp] theorem expireSeek_dq (s : State) : (expireSeek s).dq = s.dq := rfl
@[simp] theorem expireSeek_buStage (s : State) : (expireSeek s).buStage = s.buStage := rfl
@[simp] theorem expireSeek_rxbuf (s : State) : (expireSeek s).rxbuf = s.rxbuf := rfl
@[simp] theorem expireSeek_prev (s : State) : (expireSeek s).prev = s.prev := rfl
@[simp] theorem expireSeek_draining (s : State) : (expireSeek s).draining = s.draining := rfl
@[simp] theorem expireSeek_env (s : State) : (expireSeek s).env = s.env := rfl
@[simp] theorem expireSeek_hostQ (s : State) : (expireSeek s).hostQ = s.hostQ := rfl
@[simp] theorem expireSeek_panelOut (s : State) : (expireSeek s).panelOut = s.panelOut := rfl
@[simp] theorem expireSeek_ackOut (s : State) : (expireSeek s).ackOut = s.ackOut := rfl

/-! ### `fieldByte` -/

@[simp] theorem fieldByte_cfg (b : Byte) (s : State) : (fieldByte b s).cfg = s.cfg := rfl
@[simp] theorem fieldByte_rxState (b : Byte) (s : State) : (fieldByte b s).rxState = s.rxState := rfl
@[simp] theorem fieldByte_win0 (b : Byte) (s : State) : (fieldByte b s).win0 = s.win0 := rfl
@[simp] theorem fieldByte_win1 (b : Byte) (s : State) : (fieldByte b s).win1 = s.win1 := rfl
@[simp] theorem fieldByte_win2 (b : Byte) (s : State) : (fieldByte b s).win2 = s.win2 := rfl
@[simp] theorem fieldByte_win3 (b : Byte) (s : State) : (fieldByte b s).win3 = s.win3 := rfl
@[simp] theorem fieldByte_winCnt (b : Byte) (s : State) : (fieldByte b s).winCnt = s.winCnt := rfl
@[simp] theorem fieldByte_fldAcc (b : Byte) (s : State) : (fieldByte b s).fldAcc = s.fldAcc ||| (b.zeroExtend 32 <<< (8 * s.fldCnt.toNat)) := rfl
@[simp] theorem fieldByte_fldCnt (b : Byte) (s : State) : (fieldByte b s).fldCnt = s.fldCnt + 1 := rfl
@[simp] theorem fieldByte_frmLen (b : Byte) (s : State) : (fieldByte b s).frmLen = s.frmLen := rfl
@[simp] theorem fieldByte_payCnt (b : Byte) (s : State) : (fieldByte b s).payCnt = s.payCnt := rfl
@[simp] theorem fieldByte_crc (b : Byte) (s : State) : (fieldByte b s).crc = s.crc := rfl
@[simp] theorem fieldByte_phase (b : Byte) (s : State) : (fieldByte b s).phase = s.phase := rfl
@[simp] theorem fieldByte_ready (b : Byte) (s : State) : (fieldByte b s).ready = s.ready := rfl
@[simp] theorem fieldByte_lastResult (b : Byte) (s : State) : (fieldByte b s).lastResult = s.lastResult := rfl
@[simp] theorem fieldByte_ackQ (b : Byte) (s : State) : (fieldByte b s).ackQ = s.ackQ := rfl
@[simp] theorem fieldByte_waitFail (b : Byte) (s : State) : (fieldByte b s).waitFail = s.waitFail := rfl
@[simp] theorem fieldByte_fShape (b : Byte) (s : State) : (fieldByte b s).fShape = s.fShape := rfl
@[simp] theorem fieldByte_fFlags (b : Byte) (s : State) : (fieldByte b s).fFlags = s.fFlags := rfl
@[simp] theorem fieldByte_fX (b : Byte) (s : State) : (fieldByte b s).fX = s.fX := rfl
@[simp] theorem fieldByte_fY (b : Byte) (s : State) : (fieldByte b s).fY = s.fY := rfl
@[simp] theorem fieldByte_fW (b : Byte) (s : State) : (fieldByte b s).fW = s.fW := rfl
@[simp] theorem fieldByte_fH (b : Byte) (s : State) : (fieldByte b s).fH = s.fH := rfl
@[simp] theorem fieldByte_pq (b : Byte) (s : State) : (fieldByte b s).pq = s.pq := rfl
@[simp] theorem fieldByte_dq (b : Byte) (s : State) : (fieldByte b s).dq = s.dq := rfl
@[simp] theorem fieldByte_buStage (b : Byte) (s : State) : (fieldByte b s).buStage = s.buStage := rfl
@[simp] theorem fieldByte_rxbuf (b : Byte) (s : State) : (fieldByte b s).rxbuf = s.rxbuf := rfl
@[simp] theorem fieldByte_prev (b : Byte) (s : State) : (fieldByte b s).prev = s.prev := rfl
@[simp] theorem fieldByte_draining (b : Byte) (s : State) : (fieldByte b s).draining = s.draining := rfl
@[simp] theorem fieldByte_env (b : Byte) (s : State) : (fieldByte b s).env = s.env := rfl
@[simp] theorem fieldByte_hostQ (b : Byte) (s : State) : (fieldByte b s).hostQ = s.hostQ := rfl
@[simp] theorem fieldByte_panelOut (b : Byte) (s : State) : (fieldByte b s).panelOut = s.panelOut := rfl
@[simp] theorem fieldByte_ackOut (b : Byte) (s : State) : (fieldByte b s).ackOut = s.ackOut := rfl

/-! ### `emitFrame` -/

@[simp] theorem emitFrame_cfg (s : State) : (emitFrame s).cfg = s.cfg := rfl
@[simp] theorem emitFrame_rxState (s : State) : (emitFrame s).rxState = .seekMagic := rfl
@[simp] theorem emitFrame_win0 (s : State) : (emitFrame s).win0 = s.win0 := rfl
@[simp] theorem emitFrame_win1 (s : State) : (emitFrame s).win1 = s.win1 := rfl
@[simp] theorem emitFrame_win2 (s : State) : (emitFrame s).win2 = s.win2 := rfl
@[simp] theorem emitFrame_win3 (s : State) : (emitFrame s).win3 = s.win3 := rfl
@[simp] theorem emitFrame_winCnt (s : State) : (emitFrame s).winCnt = 0 := rfl
@[simp] theorem emitFrame_fldAcc (s : State) : (emitFrame s).fldAcc = s.fldAcc := rfl
@[simp] theorem emitFrame_fldCnt (s : State) : (emitFrame s).fldCnt = s.fldCnt := rfl
@[simp] theorem emitFrame_frmLen (s : State) : (emitFrame s).frmLen = s.frmLen := rfl
@[simp] theorem emitFrame_payCnt (s : State) : (emitFrame s).payCnt = s.payCnt := rfl
@[simp] theorem emitFrame_crc (s : State) : (emitFrame s).crc = s.crc := rfl
@[simp] theorem emitFrame_phase (s : State) : (emitFrame s).phase = .dispatch := rfl
@[simp] theorem emitFrame_ready (s : State) : (emitFrame s).ready = s.ready := rfl
@[simp] theorem emitFrame_lastResult (s : State) : (emitFrame s).lastResult = s.lastResult := rfl
@[simp] theorem emitFrame_ackQ (s : State) : (emitFrame s).ackQ = s.ackQ := rfl
@[simp] theorem emitFrame_waitFail (s : State) : (emitFrame s).waitFail = s.waitFail := rfl
@[simp] theorem emitFrame_fShape (s : State) : (emitFrame s).fShape = s.fShape := rfl
@[simp] theorem emitFrame_fFlags (s : State) : (emitFrame s).fFlags = s.fFlags := rfl
@[simp] theorem emitFrame_fX (s : State) : (emitFrame s).fX = s.fX := rfl
@[simp] theorem emitFrame_fY (s : State) : (emitFrame s).fY = s.fY := rfl
@[simp] theorem emitFrame_fW (s : State) : (emitFrame s).fW = s.fW := rfl
@[simp] theorem emitFrame_fH (s : State) : (emitFrame s).fH = s.fH := rfl
@[simp] theorem emitFrame_pq (s : State) : (emitFrame s).pq = s.pq := rfl
@[simp] theorem emitFrame_dq (s : State) : (emitFrame s).dq = s.dq := rfl
@[simp] theorem emitFrame_buStage (s : State) : (emitFrame s).buStage = s.buStage := rfl
@[simp] theorem emitFrame_rxbuf (s : State) : (emitFrame s).rxbuf = s.rxbuf := rfl
@[simp] theorem emitFrame_prev (s : State) : (emitFrame s).prev = s.prev := rfl
@[simp] theorem emitFrame_draining (s : State) : (emitFrame s).draining = false := rfl
@[simp] theorem emitFrame_env (s : State) : (emitFrame s).env = s.env := rfl
@[simp] theorem emitFrame_hostQ (s : State) : (emitFrame s).hostQ = s.hostQ := rfl
@[simp] theorem emitFrame_panelOut (s : State) : (emitFrame s).panelOut = s.panelOut := rfl
@[simp] theorem emitFrame_ackOut (s : State) : (emitFrame s).ackOut = s.ackOut := rfl

/-! ### `sendCommand` -/

@[simp] theorem sendCommand_cfg (o : Opcode) (data : List Byte) (s : State) : (sendCommand o data s).cfg = s.cfg := rfl
@[simp] theorem sendCommand_rxState (o : Opcode) (data : List Byte) (s : State) : (sendCommand o data s).rxState = s.rxState := rfl
@[simp] theorem sendCommand_win0 (o : Opcode) (data : List Byte) (s : State) : (sendCommand o data s).win0 = s.win0 := rfl
@[simp] theorem sendCommand_win1 (o : Opcode) (data : List Byte) (s : State) : (sendCommand o data s).win1 = s.win1 := rfl
@[simp] theorem sendCommand_win2 (o : Opcode) (data : List Byte) (s : State) : (sendCommand o data s).win2 = s.win2 := rfl
@[simp] theorem sendCommand_win3 (o : Opcode) (data : List Byte) (s : State) : (sendCommand o data s).win3 = s.win3 := rfl
@[simp] theorem sendCommand_winCnt (o : Opcode) (data : List Byte) (s : State) : (sendCommand o data s).winCnt = s.winCnt := rfl
@[simp] theorem sendCommand_fldAcc (o : Opcode) (data : List Byte) (s : State) : (sendCommand o data s).fldAcc = s.fldAcc := rfl
@[simp] theorem sendCommand_fldCnt (o : Opcode) (data : List Byte) (s : State) : (sendCommand o data s).fldCnt = s.fldCnt := rfl
@[simp] theorem sendCommand_frmLen (o : Opcode) (data : List Byte) (s : State) : (sendCommand o data s).frmLen = s.frmLen := rfl
@[simp] theorem sendCommand_payCnt (o : Opcode) (data : List Byte) (s : State) : (sendCommand o data s).payCnt = s.payCnt := rfl
@[simp] theorem sendCommand_crc (o : Opcode) (data : List Byte) (s : State) : (sendCommand o data s).crc = s.crc := rfl
@[simp] theorem sendCommand_phase (o : Opcode) (data : List Byte) (s : State) : (sendCommand o data s).phase = s.phase := rfl
@[simp] theorem sendCommand_ready (o : Opcode) (data : List Byte) (s : State) : (sendCommand o data s).ready = s.ready := rfl
@[simp] theorem sendCommand_lastResult (o : Opcode) (data : List Byte) (s : State) : (sendCommand o data s).lastResult = s.lastResult := rfl
@[simp] theorem sendCommand_ackQ (o : Opcode) (data : List Byte) (s : State) : (sendCommand o data s).ackQ = s.ackQ := rfl
@[simp] theorem sendCommand_waitFail (o : Opcode) (data : List Byte) (s : State) : (sendCommand o data s).waitFail = s.waitFail := rfl
@[simp] theorem sendCommand_fShape (o : Opcode) (data : List Byte) (s : State) : (sendCommand o data s).fShape = s.fShape := rfl
@[simp] theorem sendCommand_fFlags (o : Opcode) (data : List Byte) (s : State) : (sendCommand o data s).fFlags = s.fFlags := rfl
@[simp] theorem sendCommand_fX (o : Opcode) (data : List Byte) (s : State) : (sendCommand o data s).fX = s.fX := rfl
@[simp] theorem sendCommand_fY (o : Opcode) (data : List Byte) (s : State) : (sendCommand o data s).fY = s.fY := rfl
@[simp] theorem sendCommand_fW (o : Opcode) (data : List Byte) (s : State) : (sendCommand o data s).fW = s.fW := rfl
@[simp] theorem sendCommand_fH (o : Opcode) (data : List Byte) (s : State) : (sendCommand o data s).fH = s.fH := rfl
@[simp] theorem sendCommand_pq (o : Opcode) (data : List Byte) (s : State) : (sendCommand o data s).pq = s.pq := rfl
@[simp] theorem sendCommand_dq (o : Opcode) (data : List Byte) (s : State) : (sendCommand o data s).dq = data ++ s.dq := rfl
@[simp] theorem sendCommand_buStage (o : Opcode) (data : List Byte) (s : State) : (sendCommand o data s).buStage = s.buStage := rfl
@[simp] theorem sendCommand_rxbuf (o : Opcode) (data : List Byte) (s : State) : (sendCommand o data s).rxbuf = s.rxbuf := rfl
@[simp] theorem sendCommand_prev (o : Opcode) (data : List Byte) (s : State) : (sendCommand o data s).prev = s.prev := rfl
@[simp] theorem sendCommand_draining (o : Opcode) (data : List Byte) (s : State) : (sendCommand o data s).draining = s.draining := rfl
@[simp] theorem sendCommand_env (o : Opcode) (data : List Byte) (s : State) : (sendCommand o data s).env = s.env := rfl
@[simp] theorem sendCommand_hostQ (o : Opcode) (data : List Byte) (s : State) : (sendCommand o data s).hostQ = s.hostQ := rfl
@[simp] theorem sendCommand_panelOut (o : Opcode) (data : List Byte) (s : State) : (sendCommand o data s).panelOut = .cmd (s.cfg.opcodes.byte o) :: s.panelOut := rfl
@[simp] theorem sendCommand_ackOut (o : Opcode) (data : List Byte) (s : State) : (sendCommand o data s).ackOut = s.ackOut := rfl

/-! ### `resetPulse` -/

@[simp] theorem resetPulse_cfg (s : State) : (resetPulse s).cfg = s.cfg := rfl
@[simp] theorem resetPulse_rxState (s : State) : (resetPulse s).rxState = s.rxState := rfl
@[simp] theorem resetPulse_win0 (s : State) : (resetPulse s).win0 = s.win0 := rfl
@[simp] theorem resetPulse_win1 (s : State) : (resetPulse s).win1 = s.win1 := rfl
@[simp] theorem resetPulse_win2 (s : State) : (resetPulse s).win2 = s.win2 := rfl
@[simp] theorem resetPulse_win3 (s : State) : (resetPulse s).win3 = s.win3 := rfl
@[simp] theorem resetPulse_winCnt (s : State) : (resetPulse s).winCnt = s.winCnt := rfl
@[simp] theorem resetPulse_fldAcc (s : State) : (resetPulse s).fldAcc = s.fldAcc := rfl
@[simp] theorem resetPulse_fldCnt (s : State) : (resetPulse s).fldCnt = s.fldCnt := rfl
@[simp] theorem resetPulse_frmLen (s : State) : (resetPulse s).frmLen = s.frmLen := rfl
@[simp] theorem resetPulse_payCnt (s : State) : (resetPulse s).payCnt = s.payCnt := rfl
@[simp] theorem resetPulse_crc (s : State) : (resetPulse s).crc = s.crc := rfl
@[simp] theorem resetPulse_phase (s : State) : (resetPulse s).phase = s.phase := rfl
@[simp] theorem resetPulse_ready (s : State) : (resetPulse s).ready = s.ready := rfl
@[simp] theorem resetPulse_lastResult (s : State) : (resetPulse s).lastResult = s.lastResult := rfl
@[simp] theorem resetPulse_ackQ (s : State) : (resetPulse s).ackQ = s.ackQ := rfl
@[simp] theorem resetPulse_waitFail (s : State) : (resetPulse s).waitFail = s.waitFail := rfl
@[simp] theorem resetPulse_fShape (s : State) : (resetPulse s).fShape = s.fShape := rfl
@[simp] theorem resetPulse_fFlags (s : State) : (resetPulse s).fFlags = s.fFlags := rfl
@[simp] theorem resetPulse_fX (s : State) : (resetPulse s).fX = s.fX := rfl
@[simp] theorem resetPulse_fY (s : State) : (resetPulse s).fY = s.fY := rfl
@[simp] theorem resetPulse_fW (s : State) : (resetPulse s).fW = s.fW := rfl
@[simp] theorem resetPulse_fH (s : State) : (resetPulse s).fH = s.fH := rfl
@[simp] theorem resetPulse_pq (s : State) : (resetPulse s).pq = s.pq := rfl
@[simp] theorem resetPulse_dq (s : State) : (resetPulse s).dq = s.dq := rfl
@[simp] theorem resetPulse_buStage (s : State) : (resetPulse s).buStage = s.buStage := rfl
@[simp] theorem resetPulse_rxbuf (s : State) : (resetPulse s).rxbuf = s.rxbuf := rfl
@[simp] theorem resetPulse_prev (s : State) : (resetPulse s).prev = s.prev := rfl
@[simp] theorem resetPulse_draining (s : State) : (resetPulse s).draining = s.draining := rfl
@[simp] theorem resetPulse_env (s : State) : (resetPulse s).env = s.env := rfl
@[simp] theorem resetPulse_hostQ (s : State) : (resetPulse s).hostQ = s.hostQ := rfl
@[simp] theorem resetPulse_panelOut (s : State) : (resetPulse s).panelOut = .rst :: s.panelOut := rfl
@[simp] theorem resetPulse_ackOut (s : State) : (resetPulse s).ackOut = s.ackOut := rfl

/-! ### `beginFrame` -/

@[simp] theorem beginFrame_cfg (shape : FShape) (flags : Byte) (s : State) : (beginFrame shape flags s).cfg = s.cfg := rfl
@[simp] theorem beginFrame_rxState (shape : FShape) (flags : Byte) (s : State) : (beginFrame shape flags s).rxState = s.rxState := rfl
@[simp] theorem beginFrame_win0 (shape : FShape) (flags : Byte) (s : State) : (beginFrame shape flags s).win0 = s.win0 := rfl
@[simp] theorem beginFrame_win1 (shape : FShape) (flags : Byte) (s : State) : (beginFrame shape flags s).win1 = s.win1 := rfl
@[simp] theorem beginFrame_win2 (shape : FShape) (flags : Byte) (s : State) : (beginFrame shape flags s).win2 = s.win2 := rfl
@[simp] theorem beginFrame_win3 (shape : FShape) (flags : Byte) (s : State) : (beginFrame shape flags s).win3 = s.win3 := rfl
@[simp] theorem beginFrame_winCnt (shape : FShape) (flags : Byte) (s : State) : (beginFrame shape flags s).winCnt = s.winCnt := rfl
@[simp] theorem beginFrame_fldAcc (shape : FShape) (flags : Byte) (s : State) : (beginFrame shape flags s).fldAcc = s.fldAcc := rfl
@[simp] theorem beginFrame_fldCnt (shape : FShape) (flags : Byte) (s : State) : (beginFrame shape flags s).fldCnt = s.fldCnt := rfl
@[simp] theorem beginFrame_frmLen (shape : FShape) (flags : Byte) (s : State) : (beginFrame shape flags s).frmLen = s.frmLen := rfl
@[simp] theorem beginFrame_payCnt (shape : FShape) (flags : Byte) (s : State) : (beginFrame shape flags s).payCnt = s.payCnt := rfl
@[simp] theorem beginFrame_crc (shape : FShape) (flags : Byte) (s : State) : (beginFrame shape flags s).crc = s.crc := rfl
@[simp] theorem beginFrame_phase (shape : FShape) (flags : Byte) (s : State) : (beginFrame shape flags s).phase = s.phase := rfl
@[simp] theorem beginFrame_ready (shape : FShape) (flags : Byte) (s : State) : (beginFrame shape flags s).ready = s.ready := rfl
@[simp] theorem beginFrame_lastResult (shape : FShape) (flags : Byte) (s : State) : (beginFrame shape flags s).lastResult = s.lastResult := rfl
@[simp] theorem beginFrame_ackQ (shape : FShape) (flags : Byte) (s : State) : (beginFrame shape flags s).ackQ = s.ackQ := rfl
@[simp] theorem beginFrame_waitFail (shape : FShape) (flags : Byte) (s : State) : (beginFrame shape flags s).waitFail = false := rfl
@[simp] theorem beginFrame_fShape (shape : FShape) (flags : Byte) (s : State) : (beginFrame shape flags s).fShape = shape := rfl
@[simp] theorem beginFrame_fFlags (shape : FShape) (flags : Byte) (s : State) : (beginFrame shape flags s).fFlags = flags := rfl
@[simp] theorem beginFrame_fX (shape : FShape) (flags : Byte) (s : State) : (beginFrame shape flags s).fX = s.fX := rfl
@[simp] theorem beginFrame_fY (shape : FShape) (flags : Byte) (s : State) : (beginFrame shape flags s).fY = s.fY := rfl
@[simp] theorem beginFrame_fW (shape : FShape) (flags : Byte) (s : State) : (beginFrame shape flags s).fW = s.fW := rfl
@[simp] theorem beginFrame_fH (shape : FShape) (flags : Byte) (s : State) : (beginFrame shape flags s).fH = s.fH := rfl
@[simp] theorem beginFrame_pq (shape : FShape) (flags : Byte) (s : State) : (beginFrame shape flags s).pq = s.pq := rfl
@[simp] theorem beginFrame_dq (shape : FShape) (flags : Byte) (s : State) : (beginFrame shape flags s).dq = s.dq := rfl
@[simp] theorem beginFrame_buStage (shape : FShape) (flags : Byte) (s : State) : (beginFrame shape flags s).buStage = s.buStage := rfl
@[simp] theorem beginFrame_rxbuf (shape : FShape) (flags : Byte) (s : State) : (beginFrame shape flags s).rxbuf = s.rxbuf := rfl
@[simp] theorem beginFrame_prev (shape : FShape) (flags : Byte) (s : State) : (beginFrame shape flags s).prev = s.prev := rfl
@[simp] theorem beginFrame_draining (shape : FShape) (flags : Byte) (s : State) : (beginFrame shape flags s).draining = true := rfl
@[simp] theorem beginFrame_env (shape : FShape) (flags : Byte) (s : State) : (beginFrame shape flags s).env = s.env := rfl
@[simp] theorem beginFrame_hostQ (shape : FShape) (flags : Byte) (s : State) : (beginFrame shape flags s).hostQ = s.hostQ := rfl
@[simp] theorem beginFrame_panelOut (shape : FShape) (flags : Byte) (s : State) : (beginFrame shape flags s).panelOut = s.panelOut := rfl
@[simp] theorem beginFrame_ackOut (shape : FShape) (flags : Byte) (s : State) : (beginFrame shape flags s).ackOut = s.ackOut := rfl

/-! ### `beginRect` -/

@[simp] theorem beginRect_cfg (shape : FShape) (flags : Byte) (x y w h : Half) (s : State) : (beginRect shape flags x y w h s).cfg = s.cfg := rfl
@[simp] theorem beginRect_rxState (shape : FShape) (flags : Byte) (x y w h : Half) (s : State) : (beginRect shape flags x y w h s).rxState = s.rxState := rfl
@[simp] theorem beginRect_win0 (shape : FShape) (flags : Byte) (x y w h : Half) (s : State) : (beginRect shape flags x y w h s).win0 = s.win0 := rfl
@[simp] theorem beginRect_win1 (shape : FShape) (flags : Byte) (x y w h : Half) (s : State) : (beginRect shape flags x y w h s).win1 = s.win1 := rfl
@[simp] theorem beginRect_win2 (shape : FShape) (flags : Byte) (x y w h : Half) (s : State) : (beginRect shape flags x y w h s).win2 = s.win2 := rfl
@[simp] theorem beginRect_win3 (shape : FShape) (flags : Byte) (x y w h : Half) (s : State) : (beginRect shape flags x y w h s).win3 = s.win3 := rfl
@[simp] theorem beginRect_winCnt (shape : FShape) (flags : Byte) (x y w h : Half) (s : State) : (beginRect shape flags x y w h s).winCnt = s.winCnt := rfl
@[simp] theorem beginRect_fldAcc (shape : FShape) (flags : Byte) (x y w h : Half) (s : State) : (beginRect shape flags x y w h s).fldAcc = s.fldAcc := rfl
@[simp] theorem beginRect_fldCnt (shape : FShape) (flags : Byte) (x y w h : Half) (s : State) : (beginRect shape flags x y w h s).fldCnt = s.fldCnt := rfl
@[simp] theorem beginRect_frmLen (shape : FShape) (flags : Byte) (x y w h : Half) (s : State) : (beginRect shape flags x y w h s).frmLen = s.frmLen := rfl
@[simp] theorem beginRect_payCnt (shape : FShape) (flags : Byte) (x y w h : Half) (s : State) : (beginRect shape flags x y w h s).payCnt = s.payCnt := rfl
@[simp] theorem beginRect_crc (shape : FShape) (flags : Byte) (x y w h : Half) (s : State) : (beginRect shape flags x y w h s).crc = s.crc := rfl
@[simp] theorem beginRect_phase (shape : FShape) (flags : Byte) (x y w h : Half) (s : State) : (beginRect shape flags x y w h s).phase = s.phase := rfl
@[simp] theorem beginRect_ready (shape : FShape) (flags : Byte) (x y w h : Half) (s : State) : (beginRect shape flags x y w h s).ready = s.ready := rfl
@[simp] theorem beginRect_lastResult (shape : FShape) (flags : Byte) (x y w h : Half) (s : State) : (beginRect shape flags x y w h s).lastResult = s.lastResult := rfl
@[simp] theorem beginRect_ackQ (shape : FShape) (flags : Byte) (x y w h : Half) (s : State) : (beginRect shape flags x y w h s).ackQ = s.ackQ := rfl
@[simp] theorem beginRect_waitFail (shape : FShape) (flags : Byte) (x y w h : Half) (s : State) : (beginRect shape flags x y w h s).waitFail = false := rfl
@[simp] theorem beginRect_fShape (shape : FShape) (flags : Byte) (x y w h : Half) (s : State) : (beginRect shape flags x y w h s).fShape = shape := rfl
@[simp] theorem beginRect_fFlags (shape : FShape) (flags : Byte) (x y w h : Half) (s : State) : (beginRect shape flags x y w h s).fFlags = flags := rfl
@[simp] theorem beginRect_fX (shape : FShape) (flags : Byte) (x y w h : Half) (s : State) : (beginRect shape flags x y w h s).fX = x := rfl
@[simp] theorem beginRect_fY (shape : FShape) (flags : Byte) (x y w h : Half) (s : State) : (beginRect shape flags x y w h s).fY = y := rfl
@[simp] theorem beginRect_fW (shape : FShape) (flags : Byte) (x y w h : Half) (s : State) : (beginRect shape flags x y w h s).fW = w := rfl
@[simp] theorem beginRect_fH (shape : FShape) (flags : Byte) (x y w h : Half) (s : State) : (beginRect shape flags x y w h s).fH = h := rfl
@[simp] theorem beginRect_pq (shape : FShape) (flags : Byte) (x y w h : Half) (s : State) : (beginRect shape flags x y w h s).pq = s.pq := rfl
@[simp] theorem beginRect_dq (shape : FShape) (flags : Byte) (x y w h : Half) (s : State) : (beginRect shape flags x y w h s).dq = s.dq := rfl
@[simp] theorem beginRect_buStage (shape : FShape) (flags : Byte) (x y w h : Half) (s : State) : (beginRect shape flags x y w h s).buStage = s.buStage := rfl
@[simp] theorem beginRect_rxbuf (shape : FShape) (flags : Byte) (x y w h : Half) (s : State) : (beginRect shape flags x y w h s).rxbuf = s.rxbuf := rfl
@[simp] theorem beginRect_prev (shape : FShape) (flags : Byte) (x y w h : Half) (s : State) : (beginRect shape flags x y w h s).prev = s.prev := rfl
@[simp] theorem beginRect_draining (shape : FShape) (flags : Byte) (x y w h : Half) (s : State) : (beginRect shape flags x y w h s).draining = true := rfl
@[simp] theorem beginRect_env (shape : FShape) (flags : Byte) (x y w h : Half) (s : State) : (beginRect shape flags x y w h s).env = s.env := rfl
@[simp] theorem beginRect_hostQ (shape : FShape) (flags : Byte) (x y w h : Half) (s : State) : (beginRect shape flags x y w h s).hostQ = s.hostQ := rfl
@[simp] theorem beginRect_panelOut (shape : FShape) (flags : Byte) (x y w h : Half) (s : State) : (beginRect shape flags x y w h s).panelOut = s.panelOut := rfl
@[simp] theorem beginRect_ackOut (shape : FShape) (flags : Byte) (x y w h : Half) (s : State) : (beginRect shape flags x y w h s).ackOut = s.ackOut := rfl

/-! ### `endDispatch` -/

@[simp] theorem endDispatch_cfg (s : State) : (endDispatch s).cfg = s.cfg := rfl
@[simp] theorem endDispatch_rxState (s : State) : (endDispatch s).rxState = s.rxState := rfl
@[simp] theorem endDispatch_win0 (s : State) : (endDispatch s).win0 = s.win0 := rfl
@[simp] theorem endDispatch_win1 (s : State) : (endDispatch s).win1 = s.win1 := rfl
@[simp] theorem endDispatch_win2 (s : State) : (endDispatch s).win2 = s.win2 := rfl
@[simp] theorem endDispatch_win3 (s : State) : (endDispatch s).win3 = s.win3 := rfl
@[simp] theorem endDispatch_winCnt (s : State) : (endDispatch s).winCnt = s.winCnt := rfl
@[simp] theorem endDispatch_fldAcc (s : State) : (endDispatch s).fldAcc = s.fldAcc := rfl
@[simp] theorem endDispatch_fldCnt (s : State) : (endDispatch s).fldCnt = s.fldCnt := rfl
@[simp] theorem endDispatch_frmLen (s : State) : (endDispatch s).frmLen = s.frmLen := rfl
@[simp] theorem endDispatch_payCnt (s : State) : (endDispatch s).payCnt = s.payCnt := rfl
@[simp] theorem endDispatch_crc (s : State) : (endDispatch s).crc = s.crc := rfl
@[simp] theorem endDispatch_phase (s : State) : (endDispatch s).phase = s.phase := rfl
@[simp] theorem endDispatch_ready (s : State) : (endDispatch s).ready = s.ready := rfl
@[simp] theorem endDispatch_lastResult (s : State) : (endDispatch s).lastResult = s.result := rfl
@[simp] theorem endDispatch_ackQ (s : State) : (endDispatch s).ackQ = s.ackQ := rfl
@[simp] theorem endDispatch_waitFail (s : State) : (endDispatch s).waitFail = s.waitFail := rfl
@[simp] theorem endDispatch_fShape (s : State) : (endDispatch s).fShape = s.fShape := rfl
@[simp] theorem endDispatch_fFlags (s : State) : (endDispatch s).fFlags = s.fFlags := rfl
@[simp] theorem endDispatch_fX (s : State) : (endDispatch s).fX = s.fX := rfl
@[simp] theorem endDispatch_fY (s : State) : (endDispatch s).fY = s.fY := rfl
@[simp] theorem endDispatch_fW (s : State) : (endDispatch s).fW = s.fW := rfl
@[simp] theorem endDispatch_fH (s : State) : (endDispatch s).fH = s.fH := rfl
@[simp] theorem endDispatch_pq (s : State) : (endDispatch s).pq = s.pq := rfl
@[simp] theorem endDispatch_dq (s : State) : (endDispatch s).dq = s.dq := rfl
@[simp] theorem endDispatch_buStage (s : State) : (endDispatch s).buStage = s.buStage := rfl
@[simp] theorem endDispatch_rxbuf (s : State) : (endDispatch s).rxbuf = s.rxbuf := rfl
@[simp] theorem endDispatch_prev (s : State) : (endDispatch s).prev = s.prev := rfl
@[simp] theorem endDispatch_draining (s : State) : (endDispatch s).draining = false := rfl
@[simp] theorem endDispatch_env (s : State) : (endDispatch s).env = s.env := rfl
@[simp] theorem endDispatch_hostQ (s : State) : (endDispatch s).hostQ = s.hostQ := rfl
@[simp] theorem endDispatch_panelOut (s : State) : (endDispatch s).panelOut = s.panelOut := rfl
@[simp] theorem endDispatch_ackOut (s : State) : (endDispatch s).ackOut = s.ackOut := rfl

/-! ### `enterReceive` -/

@[simp] theorem enterReceive_cfg (s : State) : (enterReceive s).cfg = s.cfg := rfl
@[simp] theorem enterReceive_rxState (s : State) : (enterReceive s).rxState = s.rxState := rfl
@[simp] theorem enterReceive_win0 (s : State) : (enterReceive s).win0 = s.win0 := rfl
@[simp] theorem enterReceive_win1 (s : State) : (enterReceive s).win1 = s.win1 := rfl
@[simp] theorem enterReceive_win2 (s : State) : (enterReceive s).win2 = s.win2 := rfl
@[simp] theorem enterReceive_win3 (s : State) : (enterReceive s).win3 = s.win3 := rfl
@[simp] theorem enterReceive_winCnt (s : State) : (enterReceive s).winCnt = s.winCnt := rfl
@[simp] theorem enterReceive_fldAcc (s : State) : (enterReceive s).fldAcc = s.fldAcc := rfl
@[simp] theorem enterReceive_fldCnt (s : State) : (enterReceive s).fldCnt = s.fldCnt := rfl
@[simp] theorem enterReceive_frmLen (s : State) : (enterReceive s).frmLen = s.frmLen := rfl
@[simp] theorem enterReceive_payCnt (s : State) : (enterReceive s).payCnt = s.payCnt := rfl
@[simp] theorem enterReceive_crc (s : State) : (enterReceive s).crc = s.crc := rfl
@[simp] theorem enterReceive_phase (s : State) : (enterReceive s).phase = .receive := rfl
@[simp] theorem enterReceive_ready (s : State) : (enterReceive s).ready = s.ready := rfl
@[simp] theorem enterReceive_lastResult (s : State) : (enterReceive s).lastResult = if s.buStage && s.waitFail then .hwTimeout else s.lastResult := rfl
@[simp] theorem enterReceive_ackQ (s : State) : (enterReceive s).ackQ = s.ackQ := rfl
@[simp] theorem enterReceive_waitFail (s : State) : (enterReceive s).waitFail = s.waitFail := rfl
@[simp] theorem enterReceive_fShape (s : State) : (enterReceive s).fShape = s.fShape := rfl
@[simp] theorem enterReceive_fFlags (s : State) : (enterReceive s).fFlags = s.fFlags := rfl
@[simp] theorem enterReceive_fX (s : State) : (enterReceive s).fX = s.fX := rfl
@[simp] theorem enterReceive_fY (s : State) : (enterReceive s).fY = s.fY := rfl
@[simp] theorem enterReceive_fW (s : State) : (enterReceive s).fW = s.fW := rfl
@[simp] theorem enterReceive_fH (s : State) : (enterReceive s).fH = s.fH := rfl
@[simp] theorem enterReceive_pq (s : State) : (enterReceive s).pq = s.pq := rfl
@[simp] theorem enterReceive_dq (s : State) : (enterReceive s).dq = s.dq := rfl
@[simp] theorem enterReceive_buStage (s : State) : (enterReceive s).buStage = s.buStage := rfl
@[simp] theorem enterReceive_rxbuf (s : State) : (enterReceive s).rxbuf = s.rxbuf := rfl
@[simp] theorem enterReceive_prev (s : State) : (enterReceive s).prev = s.prev := rfl
@[simp] theorem enterReceive_draining (s : State) : (enterReceive s).draining = s.draining := rfl
@[simp] theorem enterReceive_env (s : State) : (enterReceive s).env = s.env := rfl
@[simp] theorem enterReceive_hostQ (s : State) : (enterReceive s).hostQ = s.hostQ := rfl
@[simp] theorem enterReceive_panelOut (s : State) : (enterReceive s).panelOut = s.panelOut := rfl
@[simp] theorem enterReceive_ackOut (s : State) : (enterReceive s).ackOut = s.ackOut := rfl

/-! ### `State.tick` -/

@[simp] theorem State.tick_cfg (s : State) : (s.tick).cfg = s.cfg := rfl
@[simp] theorem State.tick_rxState (s : State) : (s.tick).rxState = s.rxState := rfl
@[simp] theorem State.tick_win0 (s : State) : (s.tick).win0 = s.win0 := rfl
@[simp] theorem State.tick_win1 (s : State) : (s.tick).win1 = s.win1 := rfl
@[simp] theorem State.tick_win2 (s : State) : (s.tick).win2 = s.win2 := rfl
@[simp] theorem State.tick_win3 (s : State) : (s.tick).win3 = s.win3 := rfl
@[simp] theorem State.tick_winCnt (s : State) : (s.tick).winCnt = s.winCnt := rfl
@[simp] theorem State.tick_fldAcc (s : State) : (s.tick).fldAcc = s.fldAcc := rfl
@[simp] theorem State.tick_fldCnt (s : State) : (s.tick).fldCnt = s.fldCnt := rfl
@[simp] theorem State.tick_frmLen (s : State) : (s.tick).frmLen = s.frmLen := rfl
@[simp] theorem State.tick_payCnt (s : State) : (s.tick).payCnt = s.payCnt := rfl
@[simp] theorem State.tick_crc (s : State) : (s.tick).crc = s.crc := rfl
@[simp] theorem State.tick_phase (s : State) : (s.tick).phase = s.phase := rfl
@[simp] theorem State.tick_ready (s : State) : (s.tick).ready = s.ready := rfl
@[simp] theorem State.tick_lastResult (s : State) : (s.tick).lastResult = s.lastResult := rfl
@[simp] theorem State.tick_ackQ (s : State) : (s.tick).ackQ = s.ackQ := rfl
@[simp] theorem State.tick_waitFail (s : State) : (s.tick).waitFail = s.waitFail := rfl
@[simp] theorem State.tick_fShape (s : State) : (s.tick).fShape = s.fShape := rfl
@[simp] theorem State.tick_fFlags (s : State) : (s.tick).fFlags = s.fFlags := rfl
@[simp] theorem State.tick_fX (s : State) : (s.tick).fX = s.fX := rfl
@[simp] theorem State.tick_fY (s : State) : (s.tick).fY = s.fY := rfl
@[simp] theorem State.tick_fW (s : State) : (s.tick).fW = s.fW := rfl
@[simp] theorem State.tick_fH (s : State) : (s.tick).fH = s.fH := rfl
@[simp] theorem State.tick_pq (s : State) : (s.tick).pq = s.pq := rfl
@[simp] theorem State.tick_dq (s : State) : (s.tick).dq = s.dq := rfl
@[simp] theorem State.tick_buStage (s : State) : (s.tick).buStage = s.buStage := rfl
@[simp] theorem State.tick_rxbuf (s : State) : (s.tick).rxbuf = s.rxbuf := rfl
@[simp] theorem State.tick_prev (s : State) : (s.tick).prev = s.prev := rfl
@[simp] theorem State.tick_draining (s : State) : (s.tick).draining = s.draining := rfl
@[simp] theorem State.tick_env (s : State) : (s.tick).env = s.env.tail := rfl
@[simp] theorem State.tick_hostQ (s : State) : (s.tick).hostQ = s.hostQ := rfl
@[simp] theorem State.tick_panelOut (s : State) : (s.tick).panelOut = s.panelOut := rfl
@[simp] theorem State.tick_ackOut (s : State) : (s.tick).ackOut = s.ackOut := rfl

/-! ### `State.resetOf` -/

@[simp] theorem State.resetOf_cfg (c : Config) : (State.resetOf c).cfg = c := rfl
@[simp] theorem State.resetOf_rxState (c : Config) : (State.resetOf c).rxState = .seekMagic := rfl
@[simp] theorem State.resetOf_win0 (c : Config) : (State.resetOf c).win0 = 0 := rfl
@[simp] theorem State.resetOf_win1 (c : Config) : (State.resetOf c).win1 = 0 := rfl
@[simp] theorem State.resetOf_win2 (c : Config) : (State.resetOf c).win2 = 0 := rfl
@[simp] theorem State.resetOf_win3 (c : Config) : (State.resetOf c).win3 = 0 := rfl
@[simp] theorem State.resetOf_winCnt (c : Config) : (State.resetOf c).winCnt = 0 := rfl
@[simp] theorem State.resetOf_fldAcc (c : Config) : (State.resetOf c).fldAcc = 0 := rfl
@[simp] theorem State.resetOf_fldCnt (c : Config) : (State.resetOf c).fldCnt = 0 := rfl
@[simp] theorem State.resetOf_frmLen (c : Config) : (State.resetOf c).frmLen = 0 := rfl
@[simp] theorem State.resetOf_payCnt (c : Config) : (State.resetOf c).payCnt = 0 := rfl
@[simp] theorem State.resetOf_crc (c : Config) : (State.resetOf c).crc = 0xFFFFFFFF#32 := rfl
@[simp] theorem State.resetOf_phase (c : Config) : (State.resetOf c).phase = .bringup := rfl
@[simp] theorem State.resetOf_ready (c : Config) : (State.resetOf c).ready = false := rfl
@[simp] theorem State.resetOf_lastResult (c : Config) : (State.resetOf c).lastResult = .none := rfl
@[simp] theorem State.resetOf_ackQ (c : Config) : (State.resetOf c).ackQ = [] := rfl
@[simp] theorem State.resetOf_waitFail (c : Config) : (State.resetOf c).waitFail = false := rfl
@[simp] theorem State.resetOf_fShape (c : Config) : (State.resetOf c).fShape = .legacy := rfl
@[simp] theorem State.resetOf_fFlags (c : Config) : (State.resetOf c).fFlags = 0 := rfl
@[simp] theorem State.resetOf_fX (c : Config) : (State.resetOf c).fX = 0 := rfl
@[simp] theorem State.resetOf_fY (c : Config) : (State.resetOf c).fY = 0 := rfl
@[simp] theorem State.resetOf_fW (c : Config) : (State.resetOf c).fW = 0 := rfl
@[simp] theorem State.resetOf_fH (c : Config) : (State.resetOf c).fH = 0 := rfl
@[simp] theorem State.resetOf_pq (c : Config) : (State.resetOf c).pq = bringupOps c := rfl
@[simp] theorem State.resetOf_dq (c : Config) : (State.resetOf c).dq = [] := rfl
@[simp] theorem State.resetOf_buStage (c : Config) : (State.resetOf c).buStage = false := rfl
@[simp] theorem State.resetOf_rxbuf (c : Config) : (State.resetOf c).rxbuf = [] := rfl
@[simp] theorem State.resetOf_prev (c : Config) : (State.resetOf c).prev = [] := rfl
@[simp] theorem State.resetOf_draining (c : Config) : (State.resetOf c).draining = false := rfl
@[simp] theorem State.resetOf_env (c : Config) : (State.resetOf c).env = [] := rfl
@[simp] theorem State.resetOf_hostQ (c : Config) : (State.resetOf c).hostQ = [] := rfl
@[simp] theorem State.resetOf_panelOut (c : Config) : (State.resetOf c).panelOut = [] := rfl
@[simp] theorem State.resetOf_ackOut (c : Config) : (State.resetOf c).ackOut = [] := rfl

/-! ### `applyReset` -/

@[simp] theorem applyReset_cfg (s : State) : (applyReset s).cfg = s.cfg := rfl
@[simp] theorem applyReset_rxState (s : State) : (applyReset s).rxState = .seekMagic := rfl
@[simp] theorem applyReset_win0 (s : State) : (applyReset s).win0 = 0 := rfl
@[simp] theorem applyReset_win1 (s : State) : (applyReset s).win1 = 0 := rfl
@[simp] theorem applyReset_win2 (s : State) : (applyReset s).win2 = 0 := rfl
@[simp] theorem applyReset_win3 (s : State) : (applyReset s).win3 = 0 := rfl
@[simp] theorem applyReset_winCnt (s : State) : (applyReset s).winCnt = 0 := rfl
@[simp] theorem applyReset_fldAcc (s : State) : (applyReset s).fldAcc = 0 := rfl
@[simp] theorem applyReset_fldCnt (s : State) : (applyReset s).fldCnt = 0 := rfl
@[simp] theorem applyReset_frmLen (s : State) : (applyReset s).frmLen = 0 := rfl
@[simp] theorem applyReset_payCnt (s : State) : (applyReset s).payCnt = 0 := rfl
@[simp] theorem applyReset_crc (s : State) : (applyReset s).crc = 0xFFFFFFFF#32 := rfl
@[simp] theorem applyReset_phase (s : State) : (applyReset s).phase = .bringup := rfl
@[simp] theorem applyReset_ready (s : State) : (applyReset s).ready = false := rfl
@[simp] theorem applyReset_lastResult (s : State) : (applyReset s).lastResult = .none := rfl
@[simp] theorem applyReset_ackQ (s : State) : (applyReset s).ackQ = [] := rfl
@[simp] theorem applyReset_waitFail (s : State) : (applyReset s).waitFail = false := rfl
@[simp] theorem applyReset_fShape (s : State) : (applyReset s).fShape = .legacy := rfl
@[simp] theorem applyReset_fFlags (s : State) : (applyReset s).fFlags = 0 := rfl
@[simp] theorem applyReset_fX (s : State) : (applyReset s).fX = 0 := rfl
@[simp] theorem applyReset_fY (s : State) : (applyReset s).fY = 0 := rfl
@[simp] theorem applyReset_fW (s : State) : (applyReset s).fW = 0 := rfl
@[simp] theorem applyReset_fH (s : State) : (applyReset s).fH = 0 := rfl
@[simp] theorem applyReset_pq (s : State) : (applyReset s).pq = bringupOps s.cfg := rfl
@[simp] theorem applyReset_dq (s : State) : (applyReset s).dq = [] := rfl
@[simp] theorem applyReset_buStage (s : State) : (applyReset s).buStage = false := rfl
@[simp] theorem applyReset_rxbuf (s : State) : (applyReset s).rxbuf = [] := rfl
@[simp] theorem applyReset_prev (s : State) : (applyReset s).prev = [] := rfl
@[simp] theorem applyReset_draining (s : State) : (applyReset s).draining = false := rfl
@[simp] theorem applyReset_env (s : State) : (applyReset s).env = s.env := rfl
@[simp] theorem applyReset_hostQ (s : State) : (applyReset s).hostQ = s.hostQ := rfl
@[simp] theorem applyReset_panelOut (s : State) : (applyReset s).panelOut = s.panelOut := rfl
@[simp] theorem applyReset_ackOut (s : State) : (applyReset s).ackOut = s.ackOut := rfl

/-! ### Updates that branch, one equation a case -/

@[simp] theorem raiseCond_badMagic (s : State) : raiseCond .badMagic s = s := rfl
@[simp] theorem raiseCond_badLength (s : State) :
    raiseCond .badLength s = resync (sendAck (ackBadlenBytes s.cfg) s) := rfl
@[simp] theorem raiseCond_badChecksum (s : State) :
    raiseCond .badChecksum s = resync (sendAck (ackBadcrcBytes s.cfg) s) := rfl
@[simp] theorem raiseCond_transportTimeout (s : State) :
    raiseCond .transportTimeout s = resync { s with fldCnt := 0 } := rfl
@[simp] theorem raiseCond_hardwareTimeout (s : State) :
    raiseCond .hardwareTimeout s = { s with waitFail := true } := rfl
@[simp] theorem raiseCond_invalidGeometry (s : State) : raiseCond .invalidGeometry s = s := rfl
@[simp] theorem raiseCond_badShape (s : State) : raiseCond .badShape s = s := rfl
@[simp] theorem raiseCond_notReady (s : State) : raiseCond .notReady s = s := rfl

@[simp] theorem endWait_idle (t : WaitBound) (s : State) :
    endWait t true s = { s with panelOut := .wait t :: s.panelOut } := rfl
@[simp] theorem endWait_timeout (t : WaitBound) (s : State) :
    endWait t false s = { s with panelOut := .wait t :: s.panelOut, waitFail := true } := rfl

theorem sendData_nil {s : State} (h : s.dq = []) : sendData s = s := by
  simp [sendData, h]
theorem sendData_cons {s : State} {b : Byte} {rest : List Byte} (h : s.dq = b :: rest) :
    sendData s = { s with panelOut := .data b :: s.panelOut, dq := rest } := by
  simp [sendData, h]

theorem ackTransfer_nil {s : State} (h : s.ackQ = []) : ackTransfer s = s := by
  simp [ackTransfer, h]
theorem ackTransfer_cons {s : State} {b : Byte} {rest : List Byte} (h : s.ackQ = b :: rest) :
    ackTransfer s =
      { s with ackQ := rest, ackOut := b :: s.ackOut, phase := if rest = [] then .receive else s.phase } := by
  simp [ackTransfer, h]

theorem trigger_split {s : State} (h : s.cfg.trigForm = .split) (k : TrigKind) :
    trigger k s = { s with pq := [.update (trigData s.cfg k), .activate, .wait (trigBound k)] ++ s.pq } := by
  simp [trigger, h]
theorem trigger_single {s : State} {f p : Byte} (h : s.cfg.trigForm = .single f p) (k : TrigKind) :
    trigger k s =
      { s with panelOut := .cmd (trigSingle f p k) :: s.panelOut, pq := .wait (trigBound k) :: s.pq } := by
  simp [trigger, h]

end Sys2Proof.Machine
end

