-- ==== Sys2Proof/Laws/Ops.lean ====
section
/-! SUPPORT. For each shared operation, everything it can do: sequences that can fault, the byte rules of the receiver, the
dispatch of an action, the panel operations. -/

namespace Sys2Proof.Machine

/-! ### Sequences that can fault -/

@[simp] theorem outcome_ok (s : State) : outcome (.ok s) = .next s := rfl
@[simp] theorem outcome_error (f : Fault) : outcome (.error f) = .fault f := rfl

theorem outcome_eq_next {r : Except Fault State} {t : State} : outcome r = .next t ↔ r = .ok t := by
  cases r <;> simp [outcome]

@[simp] theorem collect_nil {α β : Type} (f : α → Except Fault β) : collect f [] = .ok [] := rfl

theorem collect_cons {α β : Type} {f : α → Except Fault β} {a : α} {as : List α} {b : β} {bs : List β}
    (h : f a = .ok b) (hs : collect f as = .ok bs) : collect f (a :: as) = .ok (b :: bs) := by
  simp [collect, h, hs]

/-- `collect` succeeds exactly when `f` succeeds on every element, with the results in order. -/
theorem collect_eq_ok_iff {α β : Type} {f : α → Except Fault β} {l : List α} {bs : List β} :
    collect f l = .ok bs ↔ l.map f = bs.map .ok := by
  induction l generalizing bs with
  | nil => cases bs <;> simp
  | cons a as ih =>
    cases hf : f a with
    | error e => cases bs <;> simp [collect, hf]
    | ok b =>
      cases hs : collect f as with
      | error e =>
        cases bs with
        | nil => simp [collect, hf, hs]
        | cons c cs =>
          have h : ¬ as.map f = cs.map .ok := by rw [← ih, hs]; simp
          simp [collect, hf, hs, h]
      | ok ds =>
        cases bs with
        | nil => simp [collect, hf, hs]
        | cons c cs => simp [collect, hf, hs, ← ih]

/-- Where `f` succeeds on every element, `collect` is `map`. -/
theorem collect_of_ok {α β : Type} {f : α → Except Fault β} {g : α → β} {l : List α}
    (h : ∀ a ∈ l, f a = .ok (g a)) : collect f l = .ok (l.map g) := by
  rw [collect_eq_ok_iff, List.map_map]
  exact List.map_congr_left h

/-- `collect` faults only where `f` does, with its fault. -/
theorem collect_error {α β : Type} {f : α → Except Fault β} {l : List α} {e : Fault}
    (h : collect f l = .error e) : ∃ a ∈ l, f a = .error e := by
  induction l with
  | nil => simp at h
  | cons a as ih =>
    cases hf : f a with
    | error e' => simp only [collect, hf, Except.error.injEq] at h; exact ⟨a, by simp, h ▸ hf⟩
    | ok b =>
      cases hs : collect f as with
      | ok bs => simp [collect, hf, hs] at h
      | error e' =>
        simp only [collect, hf, hs, Except.error.injEq] at h
        obtain ⟨c, hc, hfc⟩ := ih (h ▸ hs)
        exact ⟨c, List.mem_cons_of_mem _ hc, hfc⟩

/-! ### Receiver -/

/-- Everything `RX_SEEK` can do: the window grows, matches MAGIC, or drops its oldest byte. -/
theorem seekByte_ok {b : Byte} {s t : State} (h : seekByte b s = .ok t) :
    (s.winCnt = 0 ∧ t = { s with win0 := b, winCnt := 1 }) ∨
    (s.winCnt = 1 ∧ t = { s with win1 := b, winCnt := 2 }) ∨
    (s.winCnt = 2 ∧ t = { s with win2 := b, winCnt := 3 }) ∨
    (s.winCnt = 3 ∧ [s.win0, s.win1, s.win2, b] = magic ∧
      t = { s with winCnt := 0, fldAcc := 0, fldCnt := 0, rxState := .readLength }) ∨
    (s.winCnt = 3 ∧ [s.win0, s.win1, s.win2, b] ≠ magic ∧
      t = { s with win0 := s.win1, win1 := s.win2, win2 := b, winCnt := 3 }) := by
  unfold seekByte at h
  split_ifs at h with h0 h1 h2 h3 hm <;> cases h
  · exact .inl ⟨h0, rfl⟩
  · exact .inr (.inl ⟨h1, rfl⟩)
  · exact .inr (.inr (.inl ⟨h2, rfl⟩))
  · exact .inr (.inr (.inr (.inl ⟨h3, hm, rfl⟩)))
  · exact .inr (.inr (.inr (.inr ⟨h3, hm, rfl⟩)))

/-- `RX_SEEK` faults exactly on a count R23 excludes. -/
theorem seekByte_isOk {b : Byte} {s : State} (h : s.winCnt.toNat ≤ 3) : ∃ t, seekByte b s = .ok t := by
  have h4 : s.winCnt = 0 ∨ s.winCnt = 1 ∨ s.winCnt = 2 ∨ s.winCnt = 3 := by
    generalize s.winCnt = c at h
    revert c
    decide
  unfold seekByte
  split_ifs <;> first | exact ⟨_, rfl⟩ | (rcases h4 with h4 | h4 | h4 | h4 <;> contradiction)

/-- Everything the last LENGTH byte can do. -/
theorem lenLastByte_cases (b : Byte) (s : State) :
    (acceptLen s.cfg (fieldLast b s).toNat = true ∧
      lenLastByte b s = { s with
        fldCnt := 0, frmLen := fieldLast b s, payCnt := 0, crc := crcInit, rxState := .readPayload }) ∨
    (acceptLen s.cfg (fieldLast b s).toNat = false ∧
      lenLastByte b s = { s with
        fldCnt := 0, ackQ := ackBadlenBytes s.cfg, phase := .ack, rxState := .seekMagic, winCnt := 0 }) := by
  cases h : acceptLen s.cfg (fieldLast b s).toNat
  · exact .inr ⟨rfl, by simp [lenLastByte, h, resync, sendAck]⟩
  · exact .inl ⟨rfl, by simp [lenLastByte, h]⟩

/-- Everything a payload byte can do. -/
theorem payByte_ok {b : Byte} {s t : State} (h : payByte b s = .ok t) :
    s.payCnt < s.cfg.maxlen ∧
    ((s.payCnt + 1 = s.frmLen.toNat ∧ t = { s with
        rxbuf := Mem.put none s.rxbuf s.payCnt b, crc := crcUpdate s.crc b, payCnt := s.payCnt + 1, fldAcc := 0
        fldCnt := 0, rxState := .readCrc }) ∨
      (s.payCnt + 1 ≠ s.frmLen.toNat ∧ t = { s with
        rxbuf := Mem.put none s.rxbuf s.payCnt b, crc := crcUpdate s.crc b, payCnt := s.payCnt + 1 })) := by
  by_cases ha : s.payCnt < s.cfg.maxlen
  · simp only [payByte, writeRxbuf, if_pos ha] at h
    refine ⟨ha, ?_⟩
    by_cases hl : s.payCnt + 1 = s.frmLen.toNat
    · rw [if_pos hl] at h; exact .inl ⟨hl, (Except.ok.inj h).symm⟩
    · rw [if_neg hl] at h; exact .inr ⟨hl, (Except.ok.inj h).symm⟩
  · simp [payByte, writeRxbuf, if_neg ha] at h

theorem payByte_isOk {b : Byte} {s : State} (h : s.payCnt < s.cfg.maxlen) : ∃ t, payByte b s = .ok t := by
  simp only [payByte, writeRxbuf, if_pos h]
  split_ifs <;> exact ⟨_, rfl⟩

theorem payByte_fault {b : Byte} {s : State} (h : s.cfg.maxlen ≤ s.payCnt) :
    payByte b s = .error .rxbufIndex := by
  simp [payByte, writeRxbuf, Nat.not_lt.2 h]

/-- Everything the last trailer byte can do. -/
theorem crcLastByte_cases (b : Byte) (s : State) :
    (fieldLast b s = crcFinal s.crc ∧
      crcLastByte b s = { s with
        fldCnt := 0, phase := .dispatch, draining := false, rxState := .seekMagic, winCnt := 0 }) ∨
    (fieldLast b s ≠ crcFinal s.crc ∧
      crcLastByte b s = { s with
        fldCnt := 0, ackQ := ackBadcrcBytes s.cfg, phase := .ack, rxState := .seekMagic, winCnt := 0 }) := by
  by_cases h : fieldLast b s = crcFinal s.crc
  · exact .inl ⟨h, by simp [crcLastByte, h, emitFrame, resync]⟩
  · exact .inr ⟨h, by simp [crcLastByte, h, resync, sendAck]⟩

/-- The event word of R91 selects the byte rule of the receiver's state. -/
theorem State.eventInstr_eq (s : State) (b : Byte) :
    s.eventInstr b = match s.rxState with
      | .seekMagic => .rxSeek b
      | .readLength => if s.fldCnt = 3 then .rxLenLast b else .rxLen b
      | .readPayload => .rxPay b
      | .readCrc => if s.fldCnt = 3 then .rxCrcLast b else .rxCrc b := by
  have hb : ∀ st : BitVec 2, (st ++ b).extractLsb' 0 8 = b := by
    intro st; exact BitVec.extractLsb'_append_eq_right
  have hs : ∀ st : BitVec 2, (st ++ b).extractLsb' 8 2 = st := by
    intro st; exact BitVec.extractLsb'_append_eq_left
  unfold State.eventInstr decodeEvent eventWord
  rw [hb, hs]
  cases s.rxState <;> simp [RxState.code]

/-- A host byte's instruction is the byte rule of the receiver's state. -/
theorem exec_eventInstr (s : State) (b : Byte) : exec (s.eventInstr b) s = outcome (receiveByte b s) := by
  rw [State.eventInstr_eq]
  unfold receiveByte
  cases s.rxState <;> dsimp only
  · rfl
  · split_ifs <;> rfl
  · rfl
  · split_ifs <;> rfl

/-- Upstream bytes are no operand of a byte rule. -/
theorem exec_eventInstr_hostQ (s : State) (b : Byte) (q : List Byte) :
    exec (s.eventInstr b) { s with hostQ := q } = outcome (receiveByte b { s with hostQ := q }) :=
  exec_eventInstr { s with hostQ := q } b

/-! ### Dispatch -/

/-- Everything the dispatch of an action can do. -/
theorem runAction_next {act : Action} {s t : State} (h : runAction act s = .next t) :
    (s.ready = false ∧ t = s) ∨
    (s.ready = true ∧ ∃ ops m, act s = .ok (ops, m) ∧ t = { s with pq := s.pq ++ ops, prev := m }) := by
  unfold runAction at h
  cases hr : s.ready <;> simp only [hr, Bool.false_eq_true, if_false, if_true] at h
  · cases h; exact .inl ⟨rfl, rfl⟩
  · split at h
    · cases h
    · rename_i ops m ha
      cases h; exact .inr ⟨rfl, ops, m, ha, rfl⟩

theorem runAction_of_ok {act : Action} {s : State} {ops : List PanelOp} {m : Mem} (hr : s.ready = true)
    (ha : act s = .ok (ops, m)) : runAction act s = .next { s with pq := s.pq ++ ops, prev := m } := by
  simp [runAction, hr, ha]

theorem runAction_notReady {act : Action} {s : State} (hr : s.ready = false) : runAction act s = .next s := by
  simp [runAction, hr]

theorem renderThen_ok {ops : Except Fault (List PanelOp)} {mem : Except Fault Mem} {o : List PanelOp} {m : Mem} :
    renderThen ops mem = .ok (o, m) ↔ ops = .ok o ∧ mem = .ok m := by
  cases ops <;> cases mem <;> simp [renderThen]

/-! ### Panel port -/

/-- The instruction of a queue item completes: its command byte, if it has one, is sent and its data bytes come next; a
trigger puts its operations at the head of the queue; a failed wait is recorded. Only the queue, the port record and `wait_fail`
can change. -/
theorem exec_instr (op : PanelOp) (idle : Bool) (s : State) :
    ∃ t, exec (op.instr idle) s = .next t ∧
      t = { s with pq := t.pq, dq := t.dq, panelOut := t.panelOut, waitFail := t.waitFail } := by
  rcases op with _ | ⟨c, d⟩ | ⟨c, a, b⟩ | ⟨c, a, b⟩ | ⟨c, d⟩ | ⟨c, d⟩ | ⟨c, p, bs⟩ | d | d | d | _ | k | _ | w
  case trig => cases k <;> exact ⟨_, rfl, by unfold trigger; cases s.cfg.trigForm <;> rfl⟩
  case wait => cases idle <;> exact ⟨_, rfl, rfl⟩
  case plane => cases c <;> cases p <;> exact ⟨_, rfl, rfl⟩
  all_goals first | exact ⟨_, rfl, rfl⟩ | (cases c <;> exact ⟨_, rfl, rfl⟩)

/-- The operations performed and those still to come are one sequence, which the instruction of the queue's head does not
change. -/
theorem exec_instr_order (op : PanelOp) (ops : List PanelOp) (idle : Bool) (s : State) (hd : s.dq = []) {t : State}
    (h : exec (op.instr idle) { s with pq := ops } = .next t) :
    t.panelOut.reverse ++ t.pending = s.panelOut.reverse ++ { s with pq := op :: ops }.pending := by
  rcases op with _ | ⟨c, d⟩ | ⟨c, a, b⟩ | ⟨c, a, b⟩ | ⟨c, d⟩ | ⟨c, d⟩ | ⟨c, p, bs⟩ | d | d | d | _ | k | _ | w
  case trig =>
    cases k <;> cases h <;> unfold trigger <;> cases hf : s.cfg.trigForm <;>
      simp [State.pending, PanelOp.portOps, trigPortOps, trigSingle, trigData, trigBound, PanelOp.commandByte,
        PanelOp.dataBytes, hf, hd]
  case wait =>
    cases idle <;> cases h <;>
      simp [State.pending, PanelOp.portOps, hd, endWait, raiseCond]
  case plane =>
    cases c <;> cases p <;> cases h <;>
      simp [State.pending, PanelOp.portOps, PanelOp.commandByte, PanelOp.dataBytes, sendCommand, hd]
  all_goals first
    | (cases h; simp [State.pending, PanelOp.portOps, PanelOp.commandByte, PanelOp.dataBytes, sendCommand, resetPulse, hd])
    | (cases c <;> cases h <;>
        simp [State.pending, PanelOp.portOps, PanelOp.commandByte, PanelOp.dataBytes, sendCommand, hd])

end Sys2Proof.Machine
end

