-- ==== Sys2Proof/Laws/Refresh.lean ====
section
/-! SUPPORT. The byte sources, the samplers, the refresh procedures and the writes of PREV: where every source byte they look at
is there, what each answers, in the terms of Safety.lean. -/

namespace Sys2Proof.Machine

/-! ### Parameters -/

/-- The geometry constraints of R6. -/
theorem Config.wf_geometry {c : Config} (h : c.wf = true) :
    c.w % 8 = 0 ∧ 1 ≤ c.m ∧ c.m ≤ c.n ∧ 1 ≤ c.h ∧ 9 ≤ c.fb ∧ c.h ≤ 65536 := by
  simp only [Config.wf, Bool.and_eq_true, decide_eq_true_eq] at h
  tauto

/-- An error acknowledgement has 2 or 3 bytes (R31, R122). -/
theorem ackBytes_length {c : Config} (h : c.wf = true) (code : Byte) :
    2 ≤ (c.errPrefix ++ [code]).length ∧ (c.errPrefix ++ [code]).length ≤ 3 := by
  simp only [Config.wf, Config.errWf, Bool.and_eq_true, decide_eq_true_eq] at h
  simp only [List.length_append, List.length_singleton]
  omega

/-- Columns fit the 8 bits that R152's own functions send (R6). -/
theorem Config.wf_columns {c : Config} (h : c.wf = true) (hs : c.encs.colwin = .std ∨ c.encs.colcur = .std) : c.n ≤ 256 := by
  simp only [Config.wf, Encodings.covers, Bool.and_eq_true] at h
  obtain ⟨⟨⟨⟨⟨⟨-, hc⟩, -⟩, -⟩, -⟩, -⟩, -⟩ := h
  rcases hs with hs | hs
  · simpa [hs] using hc.1.1.1
  · simpa [hs] using hc.1.2

/-- A row and a column in range index a byte of an image (R61). -/
theorem idx_lt {c : Config} {r g : Nat} (hr : r < c.h) (hg : g < c.n) : idx c r g < c.fb := by
  unfold idx Config.fb
  calc r * c.bpr + g < r * c.bpr + c.bpr := Nat.add_lt_add_left hg _
    _ = (r + 1) * c.bpr := by ring
    _ ≤ c.h * c.bpr := Nat.mul_le_mul_right _ hr
    _ = c.bpr * c.h := Nat.mul_comm _ _

/-- An index of an image is the index of its own row and column, both in range. -/
theorem idx_divMod {c : Config} {i : Nat} (hi : i < c.fb) :
    idx c (i / c.bpr) (i % c.bpr) = i ∧ i / c.bpr < c.h ∧ i % c.bpr < c.n := by
  have hpos : 0 < c.bpr := Nat.pos_of_ne_zero fun h => by simp [Config.fb, h] at hi
  exact ⟨by unfold idx; rw [Nat.mul_comm]; exact Nat.div_add_mod i c.bpr, Nat.div_lt_of_lt_mul hi,
    Nat.mod_lt i hpos⟩

theorem idx_inj {c : Config} {r g r' g' : Nat} (hg : g < c.n) (hg' : g' < c.n) (h : idx c r g = idx c r' g') :
    r = r' ∧ g = g' := by
  have hpos : 0 < c.bpr := Nat.lt_of_le_of_lt (Nat.zero_le _) hg
  have e1 : idx c r g / c.bpr = r := by
    rw [idx, Nat.mul_comm, Nat.mul_add_div hpos, Nat.div_eq_of_lt (show g < c.bpr from hg), Nat.add_zero]
  have e2 : idx c r' g' / c.bpr = r' := by
    rw [idx, Nat.mul_comm, Nat.mul_add_div hpos, Nat.div_eq_of_lt (show g' < c.bpr from hg'), Nat.add_zero]
  have hr : r = r' := by rw [← e1, ← e2, h]
  subst hr
  exact ⟨rfl, by unfold idx at h; omega⟩

/-! ### Byte sources -/

/-- A payload byte is read exactly below `frm_len`, where RXBUF holds a value. -/
theorem payloadByte_eq_ok_iff {s : State} {i : Nat} {b : Byte} :
    payloadByte s i = .ok b ↔ i < s.frmLen.toNat ∧ s.rxByte i = some b := by
  by_cases hl : i < s.frmLen.toNat
  · by_cases hm : i < s.cfg.maxlen
    · cases hb : s.rxByte i <;> simp [payloadByte, hl, hm, hb]
    · simp [payloadByte, hl, hm, State.rxByte]
  · simp [payloadByte, hl]

theorem payloadByte_isOk {s : State} {i n : Nat} (hw : s.written n) (hi : i < n) (hn : n ≤ s.frmLen.toNat) :
    ∃ b, payloadByte s i = .ok b := by
  obtain ⟨b, hb⟩ := Option.isSome_iff_exists.1 (hw i hi)
  exact ⟨b, payloadByte_eq_ok_iff.2 ⟨by omega, hb⟩⟩

theorem imageSource_of_holds {s : State} {off : Nat} {img : Nat → Byte} (h : s.holdsImage off img) {i : Nat}
    (hi : i < s.cfg.fb) : imageSource s off i = .ok (img i) := by
  simp only [imageSource, if_pos hi]
  have h1 := h.1
  exact payloadByte_eq_ok_iff.2 ⟨by omega, h.2 i hi⟩

theorem rectSource_of_holds {s : State} {n : Nat} {dat : Nat → Byte} (h : s.holdsRect n dat) {i : Nat} (hi : i < n) :
    rectSource s i = .ok (dat i) := by
  have h1 := h.1
  exact payloadByte_eq_ok_iff.2 ⟨by omega, h.2 i hi⟩

theorem prevSource_of_read {c : Config} {m : Mem} {i : Nat} {b : Byte} (hi : i < c.fb)
    (h : Mem.read (some c.white) m i = some b) : prevSource c m i = .ok b := by
  simp [prevSource, hi, h]

theorem prevByte_of_lt {s : State} {i : Nat} (hi : i < s.cfg.fb) :
    s.prevByte i = Mem.read (some s.cfg.white) s.prev i := by
  simp [State.prevByte, hi]

theorem prevSource_of_shows {s : State} {img : Nat → Byte} (h : s.shows img) {i : Nat} (hi : i < s.cfg.fb) :
    prevSource s.cfg s.prev i = .ok (img i) :=
  prevSource_of_read hi (by rw [← prevByte_of_lt hi]; exact h i hi)

theorem whiteSource_of_lt {c : Config} {i : Nat} (hi : i < c.fb) : whiteSource c i = .ok c.white := by
  simp [whiteSource, hi]

/-! ### Streams and planes -/

theorem mem_rowsDown {rlo rhi r : Nat} : r ∈ rowsDown rlo rhi ↔ rlo ≤ r ∧ r ≤ rhi := by
  simp only [rowsDown, List.mem_map, List.mem_range]
  exact ⟨by rintro ⟨j, hj, rfl⟩; omega, fun h => ⟨rhi - r, by omega, by omega⟩⟩

theorem mem_colsUp {ctl : Ctl} {glo ghi g : Nat} : g ∈ colsUp ctl glo ghi ↔ glo ≤ g ∧ g ≤ ghi := by
  simp only [colsUp, List.mem_map, List.mem_range]
  cases ctl <;> dsimp only
  · exact ⟨by rintro ⟨k, hk, rfl⟩; omega, fun h => ⟨g - glo, by omega, by omega⟩⟩
  · exact ⟨by rintro ⟨k, hk, rfl⟩; omega, fun h => ⟨ghi - g, by omega, by omega⟩⟩

/-- A stream lists the (row, column) pairs of its region. -/
theorem mem_stream {c : Config} {ctl : Ctl} {glo ghi rlo rhi r g : Nat} :
    (r, g) ∈ stream c ctl glo ghi rlo rhi ↔ (rlo ≤ r ∧ r ≤ rhi) ∧ glo ≤ g ∧ g ≤ ghi := by
  unfold stream
  cases c.order <;> simp only [List.mem_flatMap, List.mem_map, Prod.mk.injEq]
  · exact ⟨by rintro ⟨g', hg, r', hr, rfl, rfl⟩; exact ⟨mem_rowsDown.1 hr, mem_colsUp.1 hg⟩,
      fun h => ⟨g, mem_colsUp.2 h.2, r, mem_rowsDown.2 h.1, rfl, rfl⟩⟩
  · exact ⟨by rintro ⟨r', hr, g', hg, rfl, rfl⟩; exact ⟨mem_rowsDown.1 hr, mem_colsUp.1 hg⟩,
      fun h => ⟨r, mem_rowsDown.2 h.1, g, mem_colsUp.2 h.2, rfl, rfl⟩⟩

/-- A plane whose sampler answers on its whole region. -/
theorem planeOp_of_ok {c : Config} {ctl : Ctl} {p : Plane} {smp : Sampler} {f : Nat → Nat → Byte}
    {glo ghi rlo rhi : Nat}
    (h : ∀ r g, rlo ≤ r → r ≤ rhi → glo ≤ g → g ≤ ghi → smp r g = .ok (f r g)) :
    planeOp c ctl p smp glo ghi rlo rhi = .ok (planeOf c ctl p f glo ghi rlo rhi) := by
  have ht : collect (fun rg : Nat × Nat => smp rg.1 rg.2) (stream c ctl glo ghi rlo rhi) =
      .ok ((stream c ctl glo ghi rlo rhi).map fun rg => f rg.1 rg.2) :=
    collect_of_ok fun rg hrg => by
      obtain ⟨⟨h1, h2⟩, h3, h4⟩ := mem_stream.1 hrg
      exact h rg.1 rg.2 h1 h2 h3 h4
  simp [planeOp, ht, planeOf, Except.map]

/-- One controller's share of a refresh, where both samplers answer on its region. -/
theorem ctlRefresh_of_ok {c : Config} {k : TrigKind} {p : Part} {new old : Sampler} {f g : Nat → Nat → Byte}
    {rlo rhi : Nat}
    (hn : ∀ r q, rlo ≤ r → r ≤ rhi → p.lo ≤ q → q ≤ p.hi → new r q = .ok (f r q))
    (ho : ∀ r q, rlo ≤ r → r ≤ rhi → p.lo ≤ q → q ≤ p.hi → old r q = .ok (g r q)) :
    ctlRefresh c k p.ctl new old p.lo p.hi rlo rhi = .ok (shareOf c k f g p rlo rhi) := by
  simp only [ctlRefresh, planeOp_of_ok hn, planeOp_of_ok ho, shareOf, trigPerCtl]
  cases c.trigMode <;> simp

/-- `FULL(F)`, where `F` is an image (R174). -/
theorem fullRefresh_of_ok {c : Config} (hc : c.wf = true) {f : Source} {img : Nat → Byte}
    (h : ∀ i, i < c.fb → f i = .ok (img i)) : fullRefresh c f = .ok (fullOf c img) := by
  obtain ⟨-, hm, hmn, hh, -⟩ := Config.wf_geometry hc
  have himg : ∀ r g, r ≤ c.h - 1 → g < c.n → imgSampler c f r g = .ok (imgOf c img r g) := by
    intro r g hr hg
    simp only [imgSampler, h _ (idx_lt (show r < c.h by omega) hg), imgOf, Except.map]
    rfl
  have hM := ctlRefresh_of_ok (c := c) (k := .full) (p := { ctl := .master, lo := 0, hi := c.ovl })
    (new := imgSampler c f) (old := zeroSampler) (f := imgOf c img) (g := fun _ _ => 0x00#8) (rlo := 0)
    (rhi := c.h - 1) (fun r q _ hr _ hq => himg r q hr (by simp only [Config.ovl] at hq; omega)) (fun _ _ _ _ _ _ => rfl)
  have hS := ctlRefresh_of_ok (c := c) (k := .full) (p := { ctl := .slave, lo := c.ovl, hi := c.n - 1 })
    (new := imgSampler c f) (old := zeroSampler) (f := imgOf c img) (g := fun _ _ => 0x00#8) (rlo := 0)
    (rhi := c.h - 1) (fun r q _ hr _ hq => himg r q hr (by simp only at hq; omega)) (fun _ _ _ _ _ _ => rfl)
  simp only at hM hS
  simp only [fullRefresh, collect, ctlSpan, hM, hS, fullOf, trigOnce]
  cases c.trigMode <;> simp

/-- `CLEAR()` (R178). -/
theorem clearWhite_eq {c : Config} (hc : c.wf = true) : clearWhite c = .ok (fullOf c fun _ => c.white) :=
  fullRefresh_of_ok hc fun _ hi => whiteSource_of_lt hi

/-- `CLEAR(); FULL(F)`, where `F` is an image. -/
theorem clearThenFull_of_ok {c : Config} (hc : c.wf = true) {f : Source} {img : Nat → Byte}
    (h : ∀ i, i < c.fb → f i = .ok (img i)) :
    clearThenFull c f = .ok (fullOf c (fun _ => c.white) ++ fullOf c img) := by
  simp [clearThenFull, clearWhite_eq hc, fullRefresh_of_ok hc h]

/-- The parts of a column range lie inside it. -/
theorem mem_splitCols {c : Config} {cx0 cx1 : Nat} {p : Part} (h : p ∈ splitCols c cx0 cx1) :
    cx0 ≤ p.lo ∧ p.hi ≤ cx1 := by
  simp only [splitCols, List.mem_append] at h
  rcases h with h | h <;> split_ifs at h <;> simp at h <;> subst h <;> simp

/-- `PARTIAL` (R176), where the rectangle's data and the OLD image are there. -/
theorem partialRefresh_of_ok {c : Config} {r : Rect} {src old : Source} {stride : Nat} {dat img : Nat → Byte}
    (hx : (rectCols r).cx1 < c.n) (hy : (rectCols r).ry1 < c.h)
    (hs : ∀ j k, j ≤ (rectCols r).ry1 - (rectCols r).ry0 → k ≤ (rectCols r).cx1 - (rectCols r).cx0 →
      src (j * stride + k) = .ok (dat (j * stride + k)))
    (ho : ∀ i, i < c.fb → old i = .ok (img i)) :
    partialRefresh c r src stride old =
      .ok (partialOf c (rectCols r) (rectOf c (rectCols r) stride dat) img) := by
  generalize hg : rectCols r = g at *
  have ht : collect (fun p : Part => ctlRefresh c .part p.ctl (rectSampler c src stride g.cx0 g.ry0) (imgSampler c old)
        p.lo p.hi g.ry0 g.ry1) (splitCols c g.cx0 g.cx1) =
      .ok ((splitCols c g.cx0 g.cx1).map fun p =>
        shareOf c .part (rectOf c g stride dat) (imgOf c img) p g.ry0 g.ry1) := by
    refine collect_of_ok fun p hp => ctlRefresh_of_ok (fun y q h1 h2 h3 h4 => ?_) (fun y q h1 h2 h3 h4 => ?_)
    · have := mem_splitCols hp
      simp [rectSampler, hs (y - g.ry0) (q - g.cx0) (by omega) (by omega), Except.map, rectOf]
    · have := mem_splitCols hp
      simp only [imgSampler, ho _ (idx_lt (show y < c.h by omega) (show q < c.n by omega)), Except.map, imgOf]
      rfl
  simp only [partialRefresh, hg, ht, partialOf, trigOnce, List.flatMap]
  cases c.trigMode <;> simp

/-- `FFP(F)` (R177), where `F` and PREV are images. -/
theorem fullFramePartial_of_ok {c : Config} (hc : c.wf = true) {f old : Source} {img prev : Nat → Byte}
    (hf : ∀ i, i < c.fb → f i = .ok (img i)) (ho : ∀ i, i < c.fb → old i = .ok (prev i)) :
    fullFramePartial c f old =
      .ok (partialOf c { cx0 := 0, cx1 := c.n - 1, ry0 := 0, ry1 := c.h - 1 } (imgOf c img) prev) := by
  obtain ⟨-, hm, hmn, hh, -⟩ := Config.wf_geometry hc
  have hg : rectCols { x := 0, y := 0, w := c.w, h := c.h } =
      { cx0 := 0, cx1 := c.n - 1, ry0 := 0, ry1 := c.h - 1 } := by
    simp [rectCols, Config.n, Config.bpr]
  have h := partialRefresh_of_ok (c := c) (r := { x := 0, y := 0, w := c.w, h := c.h }) (src := f) (old := old)
    (stride := c.bpr) (dat := img) (img := prev) (by simp only [hg]; omega) (by simp only [hg]; omega)
    (fun j k hj hk => by
      simp only [hg] at hj hk
      exact hf _ (idx_lt (c := c) (by omega) (by omega))) ho
  rw [hg] at h
  rw [fullFramePartial, h]
  rfl

/-! ### PREV -/

theorem mem_regionPairs {g : Region} {r q : Nat} :
    (r, q) ∈ regionPairs g ↔ (g.ry0 ≤ r ∧ r ≤ g.ry1) ∧ g.cx0 ≤ q ∧ q ≤ g.cx1 := by
  simp only [regionPairs, List.mem_flatMap, List.mem_map, List.mem_range, Prod.mk.injEq]
  exact ⟨by rintro ⟨j, hj, k, hk, rfl, rfl⟩; omega,
    fun h => ⟨r - g.ry0, by omega, q - g.cx0, by omega, by omega, by omega⟩⟩

theorem writePrev_of_lt {c : Config} {m : Mem} {cells : List Host.Cell} (h : ∀ d ∈ cells, d.1 < c.fb) :
    writePrev c m cells = .ok (Mem.putAll (some c.white) m cells) := by
  have : (cells.all fun cell => decide (cell.1 < c.fb)) = true := by simpa using h
  simp [writePrev, this]

/-- PREV takes a whole image (R206, R207). -/
theorem storeImage_of_ok {c : Config} {f : Source} {img : Nat → Byte} {m : Mem}
    (hm : Mem.wf (some c.white) m = true) (h : ∀ i, i < c.fb → f i = .ok (img i)) :
    ∃ m', storeImage c f m = .ok m' ∧ ∀ i, i < c.fb → Mem.read (some c.white) m' i = some (img i) := by
  have ht : collect (fun i => (f i).map fun b => (i, b)) (List.range c.fb) =
      .ok ((List.range c.fb).map fun i => (i, img i)) :=
    collect_of_ok fun i hi => by simp [h i (List.mem_range.1 hi), Except.map]
  refine ⟨_, by simp only [storeImage, ht]; exact writePrev_of_lt (by simp), fun i hi => ?_⟩
  exact Mem.read_putAll_of_mem hm (f := img) (by simp) ⟨(i, img i), by simp [hi], rfl⟩

/-- PREV takes a rectangle (R210). -/
theorem patchPrev_of_ok {c : Config} {r : Rect} {src : Source} {stride : Nat} {dat old : Nat → Byte} {m : Mem}
    (hm : Mem.wf (some c.white) m = true) (hx : (rectCols r).cx1 < c.n) (hy : (rectCols r).ry1 < c.h)
    (hs : ∀ j k, j ≤ (rectCols r).ry1 - (rectCols r).ry0 → k ≤ (rectCols r).cx1 - (rectCols r).cx0 →
      src (j * stride + k) = .ok (dat (j * stride + k)))
    (ho : ∀ i, i < c.fb → Mem.read (some c.white) m i = some (old i)) :
    ∃ m', patchPrev c r src stride m = .ok m' ∧ Mem.wf (some c.white) m' = true ∧
      ∀ i, i < c.fb → Mem.read (some c.white) m' i = some (patchedOf c (rectCols r) stride dat old i) := by
  generalize hg : rectCols r = g at *
  have ht : collect (fun rg : Nat × Nat =>
        (src ((rg.1 - g.ry0) * stride + (rg.2 - g.cx0))).map fun b => (idx c rg.1 rg.2, b)) (regionPairs g) =
      .ok ((regionPairs g).map fun rg => (idx c rg.1 rg.2, dat ((rg.1 - g.ry0) * stride + (rg.2 - g.cx0)))) :=
    collect_of_ok fun rg hrg => by
      have := mem_regionPairs.1 hrg
      simp [hs (rg.1 - g.ry0) (rg.2 - g.cx0) (by omega) (by omega), Except.map]
  refine ⟨_, by
    simp only [patchPrev, hg, ht]
    refine writePrev_of_lt fun d hd => ?_
    obtain ⟨rg, hrg, rfl⟩ := List.mem_map.1 hd
    have := mem_regionPairs.1 hrg
    exact idx_lt (by omega) (by omega), Mem.wf_putAll hm _, fun i hi => ?_⟩
  obtain ⟨hidx, hrow, hcol⟩ := idx_divMod hi
  by_cases hin : g.ry0 ≤ i / c.bpr ∧ i / c.bpr ≤ g.ry1 ∧ g.cx0 ≤ i % c.bpr ∧ i % c.bpr ≤ g.cx1
  · refine Mem.read_putAll_of_mem hm (f := patchedOf c g stride dat old) (fun d hd => ?_)
      ⟨_, List.mem_map.2 ⟨(i / c.bpr, i % c.bpr), mem_regionPairs.2 ⟨⟨hin.1, hin.2.1⟩, hin.2.2⟩, rfl⟩, hidx⟩
    obtain ⟨⟨y, q⟩, hrg, rfl⟩ := List.mem_map.1 hd
    have hb := mem_regionPairs.1 hrg
    have hq : q < c.n := by omega
    obtain ⟨h1, h2, h3⟩ := idx_divMod (idx_lt (c := c) (show y < c.h by omega) hq)
    obtain ⟨e1, e2⟩ := idx_inj h3 hq h1
    simp only [patchedOf, e1, e2]
    rw [if_pos (by tauto)]
  · rw [Mem.read_putAll_of_notMem hm, ho i hi]
    · simp [patchedOf, hin]
    · rintro d hd rfl
      obtain ⟨⟨y, q⟩, hrg, rfl⟩ := List.mem_map.1 hd
      have hb := mem_regionPairs.1 hrg
      have hq : q < c.n := by omega
      obtain ⟨e1, e2⟩ := idx_inj hcol hq hidx
      exact hin (by simp only [e1, e2]; tauto)

/-! ### Rectangles -/

/-- A validated rectangle, clamped: its byte columns and rows are in the panel, and inside the rectangle as sent (R145 to
R147). -/
theorem rectCols_clamp {c : Config} (hc : c.wf = true) {x y w h : Half} (hv : validate c x y w h = true) :
    let g := rectCols (clamp c x y w h)
    g.cx0 ≤ g.cx1 ∧ g.cx1 < c.n ∧ g.ry0 ≤ g.ry1 ∧ g.ry1 < c.h ∧ g.cx1 - g.cx0 < w.toNat / 8 ∧
      g.ry1 - g.ry0 < h.toNat := by
  obtain ⟨hw8, -⟩ := Config.wf_geometry hc
  unfold validate at hv
  split_ifs at hv with h1 h2 h3
  simp only [rectCols, clamp, Config.n, Config.bpr]
  omega

/-- The data indices of a region inside a rectangle of stride `w` and `h` rows lie in its data. -/
theorem rect_index_lt {j k w h : Nat} (hj : j < h) (hk : k < w) : j * w + k < w * h := by
  calc j * w + k < j * w + w := Nat.add_lt_add_left hk _
    _ = (j + 1) * w := by ring
    _ ≤ h * w := Nat.mul_le_mul_right _ hj
    _ = w * h := Nat.mul_comm _ _

end Sys2Proof.Machine
end

