-- ==== Sys2Proof/Laws/Frame.lean ====
section
/-! SUPPORT. Accepted lengths, the decode of a frame, the bytes of a wire frame one by one, and what the PREV writes of an
action and the end of bring-up keep. -/

namespace Sys2Proof.Machine

/-! ### Accepted lengths (R115) -/

theorem acceptLen_iff {c : Config} {n : Nat} :
    acceptLen c n = true ↔ n = c.fb ∨ n = c.fb + 1 ∨ (9 ≤ n ∧ n ≤ c.fb + 9) := by
  simp only [acceptLen, Bool.or_eq_true, Bool.and_eq_true, decide_eq_true_eq]
  tauto

/-- R25: an accepted length is at least 9 and fits RXBUF. -/
theorem acceptLen_bounds {c : Config} {n : Nat} (hc : c.wf = true) (h : acceptLen c n = true) :
    9 ≤ n ∧ n ≤ c.maxlen := by
  have := Config.wf_geometry hc
  have := acceptLen_iff.1 h
  unfold Config.maxlen
  omega

/-! ### The decode of a frame (R200 to R204) -/

/-- The kinds a frame can decode to, each with the length it has. -/
theorem decodeFrame_kind {s : State} {i : Instr} (h : decodeFrame s = .ok i) :
    (i = .frmLegacy ∧ s.frmLen.toNat = s.cfg.fb) ∨
    (∃ f, (i = .frmFullPartial f ∨ i = .frmFullForce f) ∧ s.frmLen.toNat = s.cfg.fb + 1) ∨
    (∃ f x y w h, (i = .frmRectPartial f x y w h ∨ i = .frmRectForce f x y w h) ∧ s.frmLen.toNat = rectLen w h) ∨
    ∃ len hdr, i = .badshape len hdr := by
  unfold decodeFrame at h
  split at h
  · cases h
  · split at h
    · rename_i i' hi
      cases h
      simp only [decode, decodePayload] at hi
      split_ifs at hi with h0
      · cases hi; exact .inl ⟨rfl, h0⟩
      · split at hi
        · cases hi
        · split_ifs at hi
          · split at hi <;> cases hi
            simp only [decodeRect]
            split_ifs with h1 h2
            · exact .inr (.inr (.inl ⟨_, _, _, _, _, .inr rfl, h1⟩))
            · exact .inr (.inr (.inl ⟨_, _, _, _, _, .inl rfl, h1⟩))
            · exact .inr (.inr (.inr ⟨_, _, rfl⟩))
          · cases hi
            simp only [decodeFull]
            split_ifs with h1 h2
            · exact .inr (.inl ⟨_, .inr rfl, h1⟩)
            · exact .inr (.inl ⟨_, .inl rfl, h1⟩)
            · exact .inr (.inr (.inr ⟨_, _, rfl⟩))
    · cases h

theorem payloadByte_of_written {s : State} {i : Nat} (hw : s.written s.frmLen.toNat) (hi : i < s.frmLen.toNat) :
    payloadByte s i = .ok ((s.rxByte i).getD 0#8) := by
  obtain ⟨b, hb⟩ := Option.isSome_iff_exists.1 (hw i hi)
  rw [hb]
  exact payloadByte_eq_ok_iff.2 ⟨hi, hb⟩

/-- A captured frame of an accepted length decodes to a kind. -/
theorem decodeFrame_isOk {s : State} (hc : s.cfg.wf = true) (ha : acceptLen s.cfg s.frmLen.toNat = true)
    (hw : s.written s.frmLen.toNat) : ∃ i, decodeFrame s = .ok i := by
  have hle := acceptLen_bounds hc ha
  unfold decodeFrame payloadHeader
  by_cases h0 : s.frmLen.toNat = s.cfg.fb
  · simp [h0, decode, decodePayload]
  · rw [if_neg h0, payloadByte_of_written hw (by omega : 0 < s.frmLen.toNat)]
    cases hr : flagRect ((s.rxByte 0).getD 0#8)
    · simp [hr, decode, decodePayload, h0]
    · have ht : collect (payloadByte s) (List.range 9) = .ok ((List.range 9).map fun i => (s.rxByte i).getD 0#8) :=
        collect_of_ok fun i hi => payloadByte_of_written hw (by have := List.mem_range.1 hi; omega)
      simp only [hr, if_true, ht]
      simp [List.range_succ, decode, decodePayload, h0, hr]

/-! ### Wire bytes one by one (R110) -/

@[simp] theorem receiveBytes_nil (s : State) : receiveBytes [] s = .ok s := rfl

theorem receiveBytes_cons {b : Byte} {bs : List Byte} {s t : State} (hp : s.phase = .receive)
    (h : receiveByte b s = .ok t) : receiveBytes (b :: bs) s = receiveBytes bs t := by
  simp [receiveBytes, hp, h]

theorem receiveBytes_held {bs : List Byte} {s : State} (hp : s.phase ≠ .receive) :
    receiveBytes bs s = .ok { s with hostQ := bs ++ s.hostQ } := by
  cases bs <;> simp [receiveBytes, hp]

/-! ### PREV (R206, R207, R210) -/

/-- A store of an image keeps the canonical form and the range of PREV. -/
theorem storeImage_wf {c : Config} {f : Source} {m n : Mem} (h : storeImage c f m = .ok n)
    (hm : Mem.wf (some c.white) m = true) (hr : ∀ d ∈ m, d.1 < c.fb) :
    Mem.wf (some c.white) n = true ∧ ∀ d ∈ n, d.1 < c.fb := by
  unfold storeImage at h
  split at h
  · cases h
  · exact writePrev_wf h hm hr

/-- A patch keeps the canonical form and the range of PREV. -/
theorem patchPrev_wf {c : Config} {r : Rect} {src : Source} {stride : Nat} {m n : Mem}
    (h : patchPrev c r src stride m = .ok n) (hm : Mem.wf (some c.white) m = true) (hr : ∀ d ∈ m, d.1 < c.fb) :
    Mem.wf (some c.white) n = true ∧ ∀ d ∈ n, d.1 < c.fb := by
  simp only [patchPrev] at h
  split at h
  · cases h
  · exact writePrev_wf h hm hr

/-! ### The end of bring-up (R173) -/

/-- Everything the end of bring-up does, under parameters that meet the spec's constraints. -/
theorem bringupEnd_cases {s : State} (hc : s.cfg.wf = true) :
    (s.buStage = true ∧ bringupEnd s = .ok (enterReceive s)) ∨
    (s.buStage = false ∧ s.waitFail = false ∧ s.cfg.coldClear = true ∧ bringupEnd s = .ok { s with
      ready := true, buStage := true, waitFail := false, pq := fullOf s.cfg fun _ => s.cfg.white }) ∨
    (s.buStage = false ∧ (s.waitFail = true ∨ s.cfg.coldClear = false) ∧
      bringupEnd s = .ok { s with ready := !s.waitFail, phase := .receive }) := by
  cases hb : s.buStage
  · cases hw : s.waitFail <;> cases hk : s.cfg.coldClear <;>
      simp [bringupEnd, enterReceive, hb, hw, hk, clearWhite_eq hc]
  · simp [bringupEnd, hb]

end Sys2Proof.Machine
end

