-- ==== Sys2Proof/Laws/PerInstr.lean ====
section
/-! SUPPORT. Statements about every instruction as syntax, one lemma a constructor. -/

namespace Sys2Proof.Laws.EncodedFormat

/-- The encoding of an instruction has the format that spec/opcode_table.json gives its row, under any parameters. -/
def Statement (i : Instr) : Prop := ∀ c : Config, (encode c i).format = i.format

theorem mwf1Frame (len : Word) (payload : List Byte) (crc : Word) : Statement (.mwf1Frame len payload crc) := fun _ => rfl
theorem rxSeek (b : Byte) : Statement (.rxSeek b) := fun _ => rfl
theorem rxLen (b : Byte) : Statement (.rxLen b) := fun _ => rfl
theorem rxLenLast (b : Byte) : Statement (.rxLenLast b) := fun _ => rfl
theorem rxPay (b : Byte) : Statement (.rxPay b) := fun _ => rfl
theorem rxCrc (b : Byte) : Statement (.rxCrc b) := fun _ => rfl
theorem rxCrcLast (b : Byte) : Statement (.rxCrcLast b) := fun _ => rfl
theorem frmLegacy : Statement .frmLegacy := fun _ => rfl
theorem frmFullPartial (flags : Byte) : Statement (.frmFullPartial flags) := fun _ => rfl
theorem frmFullForce (flags : Byte) : Statement (.frmFullForce flags) := fun _ => rfl
theorem frmRectPartial (flags : Byte) (x y w h : Half) : Statement (.frmRectPartial flags x y w h) := fun _ => rfl
theorem frmRectForce (flags : Byte) (x y w h : Half) : Statement (.frmRectForce flags x y w h) := fun _ => rfl
theorem badshape (len : Word) (hdr : BadHeader) : Statement (.badshape len hdr) := fun _ => by cases hdr <;> rfl
theorem ackOk : Statement .ackOk := fun _ => rfl
theorem ackBadlen : Statement .ackBadlen := fun _ => rfl
theorem ackBadcrc : Statement .ackBadcrc := fun _ => rfl
theorem opSwreset : Statement .opSwreset := fun _ => rfl
theorem opEntryM (d : Byte) : Statement (.opEntryM d) := fun _ => rfl
theorem opEntryS (d : Byte) : Statement (.opEntryS d) := fun _ => rfl
theorem opColwinM (start stop : Nat) : Statement (.opColwinM start stop) := fun _ => rfl
theorem opColwinS (start stop : Nat) : Statement (.opColwinS start stop) := fun _ => rfl
theorem opRowwinM (start stop : Half) : Statement (.opRowwinM start stop) := fun _ => rfl
theorem opRowwinS (start stop : Half) : Statement (.opRowwinS start stop) := fun _ => rfl
theorem opColcurM (col : Nat) : Statement (.opColcurM col) := fun _ => rfl
theorem opColcurS (col : Nat) : Statement (.opColcurS col) := fun _ => rfl
theorem opRowcurM (row : Half) : Statement (.opRowcurM row) := fun _ => rfl
theorem opRowcurS (row : Half) : Statement (.opRowcurS row) := fun _ => rfl
theorem opNewM (bytes : List Byte) : Statement (.opNewM bytes) := fun _ => rfl
theorem opNewS (bytes : List Byte) : Statement (.opNewS bytes) := fun _ => rfl
theorem opOldM (bytes : List Byte) : Statement (.opOldM bytes) := fun _ => rfl
theorem opOldS (bytes : List Byte) : Statement (.opOldS bytes) := fun _ => rfl
theorem opBorder (d : Byte) : Statement (.opBorder d) := fun _ => rfl
theorem opTempsrc (d : Byte) : Statement (.opTempsrc d) := fun _ => rfl
theorem opUpdate (d : Byte) : Statement (.opUpdate d) := fun _ => rfl
theorem opActivate : Statement .opActivate := fun _ => rfl
theorem trigFull : Statement .trigFull := fun _ => rfl
theorem trigPart : Statement .trigPart := fun _ => rfl
theorem rst : Statement .rst := fun _ => rfl
theorem wait (t : WaitBound) (idle : Bool) : Statement (.wait t idle) := fun _ => rfl

end Sys2Proof.Laws.EncodedFormat
end

