-- ==== Sys2Proof/Laws/Step.lean ====
section
/-! SUPPORT. Everything a step can do, said once: `step_next` and `step_fault` are cited in place of unfolding `step`. -/

namespace Sys2Proof.Machine

/-- What a step that goes on has done, with the guards under which it does it. -/
inductive Did (s : State) : State → Prop
  /-- reset (R260) -/
  | reset (hr : s.edge.rst = true) : Did s (applyReset s.tick)
  /-- nothing: no input acts -/
  | idle (hr : s.edge.rst = false) : Did s s.tick
  /-- a host byte (R110) -/
  | byte (hr : s.edge.rst = false) (hp : s.phase = .receive) (hv : s.edge.rxValid = true) {b : Byte} {rest : List Byte}
      (hq : s.hostQ = b :: rest) {t : State} (h : receiveByte b { s.tick with hostQ := rest } = .ok t) : Did s t
  /-- a field expiry (R234) -/
  | field (hr : s.edge.rst = false) (hp : s.phase = .receive) (hx : s.rxState ≠ .seekMagic) :
      Did s (raiseCond .transportTimeout s.tick)
  /-- a search expiry (R241) -/
  | seek (hr : s.edge.rst = false) (hp : s.phase = .receive) (hx : s.rxState = .seekMagic) : Did s (expireSeek s.tick)
  /-- a data byte transfer (R185) -/
  | data (hr : s.edge.rst = false) (ha : s.panelActive = true) {d : Byte} {ds : List Byte} (hd : s.dq = d :: ds) :
      Did s (sendData s.tick)
  /-- the panel operation at the head of the queue (R185) -/
  | panel (hr : s.edge.rst = false) (ha : s.panelActive = true) (hd : s.dq = []) {op : PanelOp} {ops : List PanelOp}
      (hq : s.pq = op :: ops) (idle : Bool) {t : State} (h : exec (op.instr idle) { s.tick with pq := ops } = .next t) :
      Did s t
  /-- the end of bring-up (R173) -/
  | bringup (hr : s.edge.rst = false) (hp : s.phase = .bringup) (hd : s.dq = []) (hq : s.pq = []) {t : State}
      (h : bringupEnd s.tick = .ok t) : Did s t
  /-- the start of a dispatch (R213) -/
  | frame (hr : s.edge.rst = false) (hp : s.phase = .dispatch) (hg : s.draining = false) {i : Instr}
      (hi : decodeFrame s.tick = .ok i) {t : State} (h : exec i s.tick = .next t) : Did s t
  /-- the end of a dispatch (R211 to R213) -/
  | done (hr : s.edge.rst = false) (hp : s.phase = .dispatch) (hg : s.draining = true) (hd : s.dq = []) (hq : s.pq = []) :
      Did s (sendAck ackOkBytes (endDispatch s.tick))
  /-- an acknowledgement byte transfer (R123) -/
  | ack (hr : s.edge.rst = false) (hp : s.phase = .ack) : Did s (ackTransfer s.tick)

@[simp] theorem State.tick_panelActive (s : State) : s.tick.panelActive = s.panelActive := rfl

/-- A receive phase that goes on. -/
theorem dueReceive_next {s t : State} (hr : s.edge.rst = false) (hp : s.phase = .receive)
    (h : (match dueReceive s.edge s.tick with
      | .instr i s1 => exec i s1
      | .quiet s1 => .next s1
      | .fault f => .fault f) = (.next t : Result)) : Did s t := by
  unfold dueReceive at h
  split at h
  · rename_i i s1 hi
    split at hi
    · rename_i b rest hv hq
      cases hi
      exact .byte hr hp hv hq (outcome_eq_next.1 ((exec_eventInstr_hostQ s.tick b rest).symm.trans h))
    · split_ifs at hi
  · rename_i s1 hi
    cases h
    split at hi
    · cases hi
    · split_ifs at hi with h1 h2 <;> cases hi
      · simp only [Bool.and_eq_true, decide_eq_true_eq] at h1
        exact .field hr hp h1.2
      · simp only [Bool.and_eq_true, decide_eq_true_eq] at h2
        exact .seek hr hp h2.1.2
      · exact .idle hr
  · cases h

/-- A draining phase that goes on. -/
theorem dueDrain_next {s t : State} {done : Due} (hr : s.edge.rst = false) (ha : s.panelActive = true)
    (hdone : s.dq = [] → s.pq = [] → (match done with
      | .instr i s1 => exec i s1
      | .quiet s1 => .next s1
      | .fault f => .fault f) = (.next t : Result) → Did s t)
    (h : (match dueDrain s.edge s.tick done with
      | .instr i s1 => exec i s1
      | .quiet s1 => .next s1
      | .fault f => .fault f) = (.next t : Result)) : Did s t := by
  cases hd : s.dq with
  | cons d ds =>
    simp only [dueDrain, State.tick_dq, hd] at h
    split_ifs at h <;> cases h
    · exact .data hr ha hd
    · exact .idle hr
  | nil =>
    cases hq : s.pq with
    | nil =>
      simp only [dueDrain, State.tick_dq, State.tick_pq, hd, hq] at h
      exact hdone hd hq h
    | cons op ops =>
      simp only [dueDrain, State.tick_dq, State.tick_pq, hd, hq] at h
      unfold dueOp at h
      split at h
      · rename_i i s1 hi
        split at hi
        · split_ifs at hi <;> cases hi
          · exact .panel hr ha hd hq true h
          · exact .panel hr ha hd hq false h
        · split_ifs at hi; cases hi
          exact .panel hr ha hd hq true h
      · rename_i s1 hi
        cases h
        split at hi
        · split_ifs at hi; cases hi; exact .idle hr
        · split_ifs at hi; cases hi; exact .idle hr
      · cases h

/-- Everything a step that goes on can have done. -/
theorem step_next {s t : State} (h : step s = .next t) : Did s t := by
  unfold step due at h
  cases hr : s.edge.rst
  · simp only [hr, Bool.false_eq_true, if_false, duePhase, State.tick_phase] at h
    cases hp : s.phase <;> simp only [hp] at h
    · refine dueDrain_next hr (by simp [State.panelActive, hp]) (fun hd hq hb => ?_) h
      unfold dueBringupEnd at hb
      cases he : bringupEnd s.tick <;> simp only [he] at hb <;> cases hb
      exact .bringup hr hp hd hq he
    · exact dueReceive_next hr hp h
    · cases hg : s.draining <;> simp only [State.tick_draining, hg, Bool.false_eq_true, if_false, if_true] at h
      · unfold dueFrame at h
        cases hi : decodeFrame s.tick <;> simp only [hi] at h
        · cases h
        · exact .frame hr hp hg hi h
      · refine dueDrain_next hr (by simp [State.panelActive, hp, hg]) (fun hd hq hb => ?_) h
        cases hb
        exact .done hr hp hg hd hq
    · split_ifs at h <;> cases h
      · exact .ack hr hp
      · exact .idle hr
  · simp only [hr, if_true] at h
    cases h
    exact .reset hr

/-- A step that answers no next state: where it can come from. -/
theorem step_not_next {s : State} (h : ∀ t, step s ≠ .next t) :
    (s.phase = .receive ∧ ∃ b rest, s.hostQ = b :: rest ∧ ∀ t, receiveByte b { s.tick with hostQ := rest } ≠ .ok t) ∨
    (s.phase = .bringup ∧ ∀ t, bringupEnd s.tick ≠ .ok t) ∨
    (s.phase = .dispatch ∧ s.draining = false ∧ ((∀ i, decodeFrame s.tick ≠ .ok i) ∨
      ∃ i, decodeFrame s.tick = .ok i ∧ ∀ t, exec i s.tick ≠ .next t)) := by
  have hdrain : ∀ done, (∀ t, (match dueDrain s.edge s.tick done with
      | .instr i s1 => exec i s1
      | .quiet s1 => .next s1
      | .fault f => .fault f) ≠ (.next t : Result)) → ∀ t, (match done with
      | .instr i s1 => exec i s1
      | .quiet s1 => .next s1
      | .fault f => .fault f) ≠ (.next t : Result) := by
    intro done hn
    cases hd : s.dq with
    | cons d ds =>
      simp only [dueDrain, State.tick_dq, hd] at hn
      split_ifs at hn <;> exact absurd rfl (hn _)
    | nil =>
      cases hq : s.pq with
      | nil => simpa only [dueDrain, State.tick_dq, State.tick_pq, hd, hq] using hn
      | cons op ops =>
        exfalso
        obtain ⟨t, ht, -⟩ := exec_instr op true { s.tick with pq := ops }
        simp only [dueDrain, State.tick_dq, State.tick_pq, hd, hq] at hn
        unfold dueOp at hn
        split at hn
        · rename_i i s1 hi
          split at hi
          · split_ifs at hi <;> cases hi <;> exact absurd rfl (hn _)
          · split_ifs at hi; cases hi; exact hn t ht
        · exact absurd rfl (hn _)
        · rename_i f hi
          split at hi <;> split_ifs at hi
  unfold step due at h
  cases hr : s.edge.rst
  · simp only [hr, Bool.false_eq_true, if_false, duePhase, State.tick_phase] at h
    cases hp : s.phase <;> simp only [hp] at h
    · refine .inr (.inl ⟨rfl, fun t ht => ?_⟩)
      have := hdrain _ h t
      simp [dueBringupEnd, ht] at this
    · refine .inl ⟨rfl, ?_⟩
      unfold dueReceive at h
      split at h
      · rename_i i s1 hi
        split at hi
        · rename_i b rest hv hq
          cases hi
          refine ⟨b, rest, hq, fun t ht => h t ?_⟩
          exact (exec_eventInstr_hostQ s.tick b rest).trans (outcome_eq_next.2 ht)
        · split_ifs at hi
      · exact absurd rfl (h _)
      · rename_i f hi
        split at hi
        · cases hi
        · split_ifs at hi
    · cases hg : s.draining <;> simp only [State.tick_draining, hg, Bool.false_eq_true, if_false, if_true] at h
      · refine .inr (.inr ⟨rfl, rfl, ?_⟩)
        unfold dueFrame at h
        cases hi : decodeFrame s.tick <;> simp only [hi] at h
        · exact .inl (by simp)
        · exact .inr ⟨_, rfl, h⟩
      · exact absurd rfl (hdrain _ h _)
    · split_ifs at h <;> exact absurd rfl (h _)
  · simp only [hr, if_true] at h
    exact absurd rfl (h _)

end Sys2Proof.Machine
end

