-- ==== Sys2Proof/Tests/Slice0.lean ====
section
/-! SUPPORT. Tests of the model. Expected results are the spec's own: the encodings of spec/30_encoding.md, the examples of
the rules, and spec/95_test_vectors.md. The last part shows, for each statement with hypotheses, states and operands that meet
them. -/

namespace Sys2Proof.Tests

open Sys2Proof.Machine

/-! ### Helpers -/

/-- Configuration S of 95_test_vectors.md section 1, with every OPEN parameter a number. -/
def tcfg : Config :=
  { Config.std with
    w := 24, h := 4, m := 2, entryDataM := 0x03#8, entryDataS := 0x02#8, borderData := 0x01#8, tempData := 0x80#8
    timing := { rstPulse := 10, busyInit := 100, busyFull := 1000, busyPart := 500, poll := 5, magic := 9, len := 9,
                pay := 9, crc := 9 } }

/-- A deployment whose columns are sent in pixels, end before start, and whose row cursor is sent high byte first. -/
def pixels : Config :=
  { tcfg with
    encs :=
      { Config.stdEncs with
        colwin := .table ((orderedPairs 3).map fun p => (p, [BitVec.ofNat 8 (8 * p.2 + 7), BitVec.ofNat 8 (8 * p.1)]))
        rowcur := .table ((List.range 4).map fun r => (BitVec.ofNat 16 r, [0x00#8, BitVec.ofNat 8 r])) } }

/-- The block after a successful bring-up, without the cold-start clear. -/
def rs : State := { State.resetOf tcfg with phase := .receive, ready := true, pq := [] }

/-- RXBUF holding these bytes from address 0. -/
def cells (p : List Byte) : Mem := payloadCells 0 p p.length

/-- A frame emitted, its payload in RXBUF. -/
def fs (p : List Byte) : State :=
  { rs with phase := .dispatch, frmLen := BitVec.ofNat 32 p.length, rxbuf := cells p }

/-- The next state. -/
def nx : Result → Option State
  | .next s => some s
  | .fault _ => none
  | .refused _ => none

/-- A field of the next state. -/
def get {α : Type} (r : Result) (f : State → α) : Option α := (nx r).map f

/-- Bytes from numbers. -/
def bs (l : List Nat) : List Byte := l.map (BitVec.ofNat 8)

/-- `img1` of 95_test_vectors.md W8. -/
def img1 : List Byte :=
  [0x01#8, 0x02#8, 0x03#8, 0x11#8, 0x12#8, 0x13#8, 0x21#8, 0x22#8, 0x23#8, 0x31#8, 0x32#8, 0x33#8]

/-- "123456789", the payload of W1. -/
def digits : List Byte := [0x31#8, 0x32#8, 0x33#8, 0x34#8, 0x35#8, 0x36#8, 0x37#8, 0x38#8, 0x39#8]

/-- The bytes of PREV. -/
def prevBytes (s : State) : List Byte := (List.range s.cfg.fb).map fun i => (s.prevByte i).getD 0#8

/-- The streams of the planes in the queue. -/
def planes (s : State) : List (List Byte) :=
  s.pq.filterMap fun
    | .plane _ _ b => some b
    | _ => none

/-- The state with these inputs for its next step. -/
def withEdge (e : Edge) (s : State) : State := { s with env := [e] }

/-! ### WellFormed: an ill-formed term for each check, refused -/

theorem test_wf_wire_length : (Instr.mwf1Frame 3 [0x00#8, 0x00#8] 0).wf tcfg = false := by decide
theorem test_wf_legacy_length : Instr.frmLegacy.wf { tcfg with w := 2 ^ 32, h := 8 } = false := by decide
theorem test_wf_full_partial_flags : (Instr.frmFullPartial 0x01#8).wf tcfg = false := by decide
theorem test_wf_full_partial_length : (Instr.frmFullPartial 0x00#8).wf { tcfg with w := 2 ^ 32, h := 8 } = false := by decide
theorem test_wf_full_force_flags : (Instr.frmFullForce 0x00#8).wf tcfg = false := by decide
theorem test_wf_full_force_length : (Instr.frmFullForce 0x01#8).wf { tcfg with w := 2 ^ 32, h := 8 } = false := by decide
theorem test_wf_rect_partial_flags : (Instr.frmRectPartial 0x00#8 0 0 8 1).wf tcfg = false := by decide
theorem test_wf_rect_partial_legacy_length : (Instr.frmRectPartial 0x02#8 0 0 8 3).wf tcfg = false := by decide
theorem test_wf_rect_force_flags : (Instr.frmRectForce 0x02#8 0 0 8 1).wf tcfg = false := by decide
theorem test_wf_rect_force_legacy_length : (Instr.frmRectForce 0x03#8 0 0 8 3).wf tcfg = false := by decide
theorem test_wf_badshape_legacy_length : (Instr.badshape 12 (.full 0x00#8)).wf tcfg = false := by decide
theorem test_wf_badshape_full_flags : (Instr.badshape 9 (.full 0x02#8)).wf tcfg = false := by decide
theorem test_wf_badshape_full_length : (Instr.badshape 13 (.full 0x00#8)).wf tcfg = false := by decide
theorem test_wf_badshape_rect_flags : (Instr.badshape 9 (.rect 0x00#8 0 0 8 1)).wf tcfg = false := by decide
theorem test_wf_badshape_rect_length : (Instr.badshape 10 (.rect 0x02#8 0 0 8 1)).wf tcfg = false := by decide
theorem test_wf_accepts : ((Instr.frmRectForce 0xFF#8 0 0 8 1).wf tcfg && (Instr.badshape 9 (.full 0x00#8)).wf tcfg &&
    (Instr.mwf1Frame 1 [0x00#8] 0).wf tcfg && Instr.frmLegacy.wf tcfg && (Instr.frmFullForce 0x05#8).wf tcfg) = true := by
  decide

theorem test_cfg_accepts : tcfg.wf = true := by decide
theorem test_cfg_width : { tcfg with w := 25 }.wf = false := by decide
theorem test_cfg_split_low : { tcfg with m := 0 }.wf = false := by decide
theorem test_cfg_split_high : { tcfg with m := 4 }.wf = false := by decide
theorem test_cfg_height_low : { tcfg with h := 0 }.wf = false := by decide
theorem test_cfg_height_high : { tcfg with h := 65537 }.wf = false := by decide
theorem test_cfg_columns : { tcfg with w := 2056 }.wf = false := by decide
theorem test_cfg_small : { tcfg with h := 2 }.wf = false := by decide
theorem test_cfg_error_codes : { tcfg with errCrc := 0x4C#8 }.wf = false := by decide
theorem test_cfg_error_prefix : { tcfg with errPrefix := [0x4F#8, 0x4B#8] }.wf = false := by decide
theorem test_cfg_error_prefix_short : { tcfg with errPrefix := [0x4F#8], errLen := 0x4B#8 }.wf = false := by decide
theorem test_cfg_error_prefix_length : { tcfg with errPrefix := [] }.wf = false ∧
    { tcfg with errPrefix := [0x45#8, 0x52#8, 0x52#8] }.wf = false ∧ { tcfg with errPrefix := [0x45#8] }.wf = true := by decide
theorem test_cfg_table : pixels.wf = true ∧ pixels.readable = true := by decide +kernel
theorem test_cfg_table_cover : { tcfg with encs := { Config.stdEncs with colcur := .table [(0, [0x00#8])] } }.wf = false := by decide
theorem test_cfg_table_injective :
    { tcfg with encs := { Config.stdEncs with colcur := .table [(0, [0x00#8]), (1, [0x00#8])] } }.readable = false := by decide
theorem test_cfg_opcode_sets : { tcfg with opcodes := { Config.stdOpcodes with newS := 0x24#8 } }.wf = false := by decide
theorem test_cfg_updates : { tcfg with updFull := 0xFF#8 }.wf = false := by decide
theorem test_cfg_single_trigger : { tcfg with trigForm := .single 0x20#8 0x20#8 }.wf = false := by decide
theorem test_cfg_timing : { tcfg with timing := { tcfg.timing with busyPart := 1000 } }.wf = false := by decide
theorem test_cfg_default_opcodes : Config.stdOpcodes.distinct = true := by decide

/-! ### Decode: words written out from spec/30_encoding.md and the opcodes of 93_implementation_defined.md I9 -/

theorem test_dec_wire : decode tcfg (.wire [0x4D#8, 0x57#8, 0x46#8, 0x31#8, 0x02#8, 0x00#8, 0x00#8, 0x00#8, 0xAA#8, 0xBB#8, 0x26#8,
    0x39#8, 0xF4#8, 0xCB#8]) = .ok (.mwf1Frame 2 [0xAA#8, 0xBB#8] 0xCBF43926#32) := by rfl
theorem test_dec_wire_magic : decode tcfg (.wire [0x4D#8, 0x57#8, 0x46#8, 0x32#8]) = .error .badMagic := by rfl
theorem test_dec_wire_short : decode tcfg (.wire [0x4D#8, 0x57#8, 0x46#8, 0x31#8, 0x01#8, 0x00#8, 0x00#8, 0x00#8, 0xAA#8, 0x26#8,
    0x39#8, 0xF4#8]) = .error .wireLength := by rfl
theorem test_dec_rx_seek : decode tcfg (.event 0 0x04D) = .ok (.rxSeek 0x4D#8) := by rfl
theorem test_dec_rx_len : decode tcfg (.event 2 0x109) = .ok (.rxLen 0x09#8) := by rfl
theorem test_dec_rx_len_last : decode tcfg (.event 3 0x100) = .ok (.rxLenLast 0x00#8) := by rfl
theorem test_dec_rx_pay : decode tcfg (.event 3 0x231) = .ok (.rxPay 0x31#8) := by rfl
theorem test_dec_rx_crc : decode tcfg (.event 0 0x326) = .ok (.rxCrc 0x26#8) := by rfl
theorem test_dec_rx_crc_last : decode tcfg (.event 3 0x3CB) = .ok (.rxCrcLast 0xCB#8) := by rfl
theorem test_dec_legacy : decode tcfg (.payload 12 [0xFF#8]) = .ok .frmLegacy := by rfl
theorem test_dec_full_partial : decode tcfg (.payload 13 [0xFC#8]) = .ok (.frmFullPartial 0xFC#8) := by rfl
theorem test_dec_full_force : decode tcfg (.payload 13 [0x01#8]) = .ok (.frmFullForce 0x01#8) := by rfl
theorem test_dec_rect_partial : decode tcfg (.payload 13 [0x02#8, 0x08#8, 0x00#8, 0x01#8, 0x00#8, 0x10#8, 0x00#8, 0x02#8, 0x00#8]) =
    .ok (.frmRectPartial 0x02#8 8 1 16 2) := by rfl
theorem test_dec_rect_force : decode tcfg (.payload 10 [0x03#8, 0x10#8, 0x03#8, 0x00#8, 0x01#8, 0x08#8, 0x00#8, 0x01#8, 0x00#8]) =
    .ok (.frmRectForce 0x03#8 784 256 8 1) := by rfl
theorem test_dec_badshape_full : decode tcfg (.payload 9 [0x31#8]) = .ok (.badshape 9 (.full 0x31#8)) := by rfl
theorem test_dec_badshape_rect : decode tcfg (.payload 11 [0x02#8, 0x00#8, 0x00#8, 0x00#8, 0x00#8, 0x08#8, 0x00#8, 0x01#8, 0x00#8]) =
    .ok (.badshape 11 (.rect 0x02#8 0 0 8 1)) := by rfl
theorem test_dec_short_header : decode tcfg (.payload 10 [0x03#8, 0x10#8]) = .error .shortHeader := by rfl
theorem test_dec_ack_ok : decode tcfg (.ack [0x4F#8, 0x4B#8]) = .ok .ackOk := by rfl
theorem test_dec_ack_badlen : decode tcfg (.ack [0x45#8, 0x52#8, 0x4C#8]) = .ok .ackBadlen := by rfl
theorem test_dec_ack_badcrc : decode tcfg (.ack [0x45#8, 0x52#8, 0x43#8]) = .ok .ackBadcrc := by rfl
theorem test_dec_ack_unknown : decode tcfg (.ack [0x45#8, 0x52#8]) = .error .unknownAck := by rfl
theorem test_dec_swreset : decode tcfg (.panel [0x12#8]) = .ok .opSwreset := by rfl
theorem test_dec_entry_m : decode tcfg (.panel [0x11#8, 0x03#8]) = .ok (.opEntryM 0x03#8) := by rfl
theorem test_dec_entry_s : decode tcfg (.panel [0x91#8, 0x02#8]) = .ok (.opEntryS 0x02#8) := by rfl
theorem test_dec_colwin_m : decode tcfg (.panel [0x44#8, 0x00#8, 0x31#8]) = .ok (.opColwinM 0 0x31) := by rfl
theorem test_dec_colwin_s : decode tcfg (.panel [0xC4#8, 0x00#8, 0x31#8]) = .ok (.opColwinS 0 0x31) := by rfl
theorem test_dec_rowwin_m : decode tcfg (.panel [0x45#8, 0x0F#8, 0x01#8, 0x00#8, 0x00#8]) = .ok (.opRowwinM 271 0) := by rfl
theorem test_dec_rowwin_s : decode tcfg (.panel [0xC5#8, 0x0F#8, 0x01#8, 0x00#8, 0x00#8]) = .ok (.opRowwinS 271 0) := by rfl
theorem test_dec_colcur_m : decode tcfg (.panel [0x4E#8, 0x31#8]) = .ok (.opColcurM 0x31) := by rfl
theorem test_dec_colcur_s : decode tcfg (.panel [0xCE#8, 0x30#8]) = .ok (.opColcurS 0x30) := by rfl
theorem test_dec_table : decode pixels (.panel [0x44#8, 0x17#8, 0x08#8]) = .ok (.opColwinM 1 2) ∧
    decode pixels (.panel [0x4F#8, 0x00#8, 0x03#8]) = .ok (.opRowcurM 3) := ⟨by rfl, by rfl⟩
theorem test_dec_table_unlisted : decode pixels (.panel [0x44#8, 0x00#8, 0x01#8]) = .error .dataCount := by rfl
theorem test_dec_rowcur_m : decode tcfg (.panel [0x4F#8, 0x0F#8, 0x01#8]) = .ok (.opRowcurM 271) := by rfl
theorem test_dec_rowcur_s : decode tcfg (.panel [0xCF#8, 0x0F#8, 0x01#8]) = .ok (.opRowcurS 271) := by rfl
theorem test_dec_new_m : decode tcfg (.panel [0x24#8, 0xB1#8, 0xA1#8]) = .ok (.opNewM [0xB1#8, 0xA1#8]) := by rfl
theorem test_dec_new_s : decode tcfg (.panel [0xA4#8, 0xB2#8]) = .ok (.opNewS [0xB2#8]) := by rfl
theorem test_dec_old_m : decode tcfg (.panel [0x26#8, 0x22#8]) = .ok (.opOldM [0x22#8]) := by rfl
theorem test_dec_old_s : decode tcfg (.panel [0xA6#8, 0x23#8]) = .ok (.opOldS [0x23#8]) := by rfl
theorem test_dec_border : decode tcfg (.panel [0x3C#8, 0x01#8]) = .ok (.opBorder 0x01#8) := by rfl
theorem test_dec_tempsrc : decode tcfg (.panel [0x18#8, 0x80#8]) = .ok (.opTempsrc 0x80#8) := by rfl
theorem test_dec_update : decode tcfg (.panel [0x22#8, 0xF7#8]) = .ok (.opUpdate 0xF7#8) := by rfl
theorem test_dec_activate : decode tcfg (.panel [0x20#8]) = .ok .opActivate := by rfl
theorem test_dec_data_count : decode tcfg (.panel [0x20#8, 0x00#8]) = .error .dataCount := by rfl
theorem test_dec_no_opcode : decode tcfg (.panel [0x01#8]) = .error .unknownOpcode := by rfl
theorem test_dec_trig_full : decode tcfg (.trigger [.cmd 0x22#8, .data 0xF7#8, .cmd 0x20#8]) = .ok .trigFull := by rfl
theorem test_dec_trig_part : decode tcfg (.trigger [.cmd 0x22#8, .data 0xFF#8, .cmd 0x20#8]) = .ok .trigPart := by rfl
theorem test_dec_trig_single : decode { tcfg with trigForm := .single 0xC7#8 0xCF#8 } (.trigger [.cmd 0xCF#8]) = .ok .trigPart := by rfl
theorem test_dec_trig_unknown : decode tcfg (.trigger [.cmd 0x22#8]) = .error .unknownTrigger := by rfl
theorem test_dec_rst : decode tcfg .reset = .ok .rst := by rfl
theorem test_dec_wait : decode tcfg (.waited .part false) = .ok (.wait .part false) := by rfl

/-! ### Checksum and geometry: V-CRC, V-GEO and the rules' examples -/

theorem test_crc_check : crc32 digits = 0xCBF43926#32 := by decide +kernel
theorem test_crc_empty : crc32 [] = 0#32 ∧ crc32 [0xFF#8, 0xFF#8, 0xFF#8, 0xFF#8] = 0xFFFFFFFF#32 := by decide +kernel
theorem test_crc_update : crcUpdate 0#32 0x01#8 = 0x77073096#32 ∧ crcUpdate 0#32 0x80#8 = 0xEDB88320#32 ∧
    crcUpdate 0xFFFFFFFF#32 0x31#8 = 0x7C231048#32 ∧ crcFinal 0x340BC6D9#32 = 0xCBF43926#32 := by decide
theorem test_crc_img1 : crc32 img1 = 0x32477E12#32 := by decide +kernel
theorem test_rev8 : rev8 0x01#8 = 0x80#8 ∧ rev8 0xB4#8 = 0x2D#8 ∧ rev8 0x0F#8 = 0xF0#8 := by decide
theorem test_xform : xform { tcfg with revBits := true, invert := true } 0xB4#8 = 0xD2#8 := by decide
theorem test_validate : validate Config.std 784 0 16 8 = true ∧ validate Config.std 3 0 8 8 = false ∧
    validate Config.std 792 0 8 1 = false ∧ validate Config.std 0 272 8 1 = false ∧
    validate Config.std 0 0 65528 65535 = true := by decide
theorem test_clamp : clamp Config.std 8 271 800 5 = { x := 8, y := 271, w := 784, h := 1 } ∧
    rectCols (clamp Config.std 784 0 16 8) = { cx0 := 98, cx1 := 98, ry0 := 0, ry1 := 7 } := by decide
theorem test_split : splitCols Config.std 48 51 = [⟨.master, 48, 49⟩, ⟨.slave, 49, 51⟩] ∧
    splitCols Config.std 98 98 = [⟨.slave, 98, 98⟩] ∧ splitCols Config.std 0 10 = [⟨.master, 0, 10⟩] := by decide
theorem test_ctlcol : ctlCol Config.std .slave 49 = 49 ∧ ctlCol Config.std .slave 98 = 0 ∧
    ctlCol Config.std .slave 60 = 38 := by decide
theorem test_stream : stream tcfg .master 0 1 0 1 = [(1, 0), (0, 0), (1, 1), (0, 1)] ∧
    stream Config.std .slave 49 50 0 0 = [(0, 50), (0, 49)] := by decide
theorem test_plane : planeOp tcfg .master .old zeroSampler 0 0 0 1 = .ok (.plane .master .old [0x00#8, 0x00#8]) := by rfl
theorem test_wait_idle : waitIdle 15 5 0 [true, true, false] = some true ∧
    waitIdle 15 5 0 [true, true, true, true] = some false ∧ waitIdle 0 5 0 [true] = some false := by decide


/-! ### One step of each instruction -/

theorem test_frame_emitted :
    (get (exec (.mwf1Frame 9 digits 0xCBF43926#32) rs) fun t => (t.phase, t.frmLen, t.rxByte 8, t.ackQ)) =
      some (.dispatch, 9, some 0x39#8, []) := by decide +kernel
theorem test_frame_refused :
    (get (exec (.mwf1Frame 9 (0x30#8 :: digits.tail) 0xCBF43926#32) rs) fun t => (t.phase, t.ackQ, t.rxState, t.winCnt)) =
      some (.ack, [0x45#8, 0x52#8, 0x43#8], .seekMagic, 0) := by decide +kernel

theorem test_seek_shifts :
    (get (exec (.rxSeek 0x46#8) { rs with win0 := 0x58#8, win1 := 0x4D#8, win2 := 0x57#8, winCnt := 3 }) fun t =>
      (t.win0, t.win1, t.win2, t.winCnt, t.rxState)) = some (0x4D#8, 0x57#8, 0x46#8, 3, .seekMagic) := by decide
theorem test_seek_matches :
    (get (exec (.rxSeek 0x31#8) { rs with win0 := 0x4D#8, win1 := 0x57#8, win2 := 0x46#8, winCnt := 3 }) fun t =>
      (t.winCnt, t.rxState)) = some (0, .readLength) := by decide
theorem test_len_byte :
    (get (exec (.rxLen 0x69#8) { rs with fldAcc := 0x8A#32, fldCnt := 1 }) fun t => (t.fldAcc, t.fldCnt)) =
      some (0x698A#32, 2) := by decide
theorem test_len_last_accepts :
    (get (exec (.rxLenLast 0x00#8) { rs with fldAcc := 21, fldCnt := 3, payCnt := 4, crc := 0 }) fun t =>
      (t.rxState, t.frmLen, t.payCnt, t.crc, t.fldCnt)) = some (.readPayload, 21, 0, 0xFFFFFFFF#32, 0) := by decide
theorem test_len_last_refuses :
    (get (exec (.rxLenLast 0x00#8) { rs with fldAcc := 22, fldCnt := 3 }) fun t =>
      (t.rxState, t.phase, t.ackQ, t.fldCnt)) = some (.seekMagic, .ack, [0x45#8, 0x52#8, 0x4C#8], 0) := by decide
theorem test_pay_byte :
    (get (exec (.rxPay 0x31#8) { rs with rxState := .readPayload, frmLen := 9, payCnt := 0 }) fun t =>
      (t.rxState, t.payCnt, t.crc, t.rxByte 0)) = some (.readPayload, 1, 0x7C231048#32, some 0x31#8) := by decide +kernel
theorem test_pay_last :
    (get (exec (.rxPay 0x39#8) { rs with rxState := .readPayload, frmLen := 9, payCnt := 8, crc := 0x651F2550#32 }) fun t =>
      (t.rxState, t.payCnt, t.crc, t.fldCnt)) = some (.readCrc, 9, 0x340BC6D9#32, 0) := by decide +kernel
theorem test_crc_byte :
    (get (exec (.rxCrc 0xF4#8) { rs with fldAcc := 0x3926#32, fldCnt := 2 }) fun t => (t.fldAcc, t.fldCnt)) =
      some (0x00F43926#32, 3) := by decide
theorem test_crc_last_emits :
    (get (exec (.rxCrcLast 0xCB#8) { rs with fldAcc := 0x00F43926#32, fldCnt := 3, crc := 0x340BC6D9#32 }) fun t =>
      (t.phase, t.draining, t.rxState, t.fldCnt)) = some (.dispatch, false, .seekMagic, 0) := by decide
theorem test_crc_last_refuses :
    (get (exec (.rxCrcLast 0xCB#8) { rs with fldAcc := 0x00F43926#32, fldCnt := 3, crc := 0x340BC6D8#32 }) fun t =>
      (t.phase, t.ackQ, t.rxState)) = some (.ack, [0x45#8, 0x52#8, 0x43#8], .seekMagic) := by decide

theorem test_legacy :
    (get (exec .frmLegacy (fs (List.replicate 12 0x00#8))) fun t => (t.fShape, t.fFlags, prevBytes t, planes t)) =
      some (.legacy, 0x00#8, List.replicate 12 0x00#8,
        [List.replicate 8 0x00#8, List.replicate 8 0xFF#8, List.replicate 8 0x00#8, List.replicate 8 0xFF#8]) := by
  decide +kernel
theorem test_full_partial :
    (get (exec (.frmFullPartial 0xFC#8) (fs (0xFC#8 :: img1))) fun t => (t.fShape, t.fFlags, prevBytes t, (planes t).head?)) =
      some (.full, 0xFC#8, img1, some [0x31#8, 0x21#8, 0x11#8, 0x01#8, 0x32#8, 0x22#8, 0x12#8, 0x02#8]) := by
  decide +kernel
theorem test_full_force :
    (get (exec (.frmFullForce 0x01#8) (fs (0x01#8 :: img1))) fun t => (prevBytes t, t.pending.length, planes t)) =
      some (img1, 140,
        [List.replicate 8 0xFF#8, List.replicate 8 0x00#8, List.replicate 8 0xFF#8, List.replicate 8 0x00#8,
          [0x31#8, 0x21#8, 0x11#8, 0x01#8, 0x32#8, 0x22#8, 0x12#8, 0x02#8], List.replicate 8 0x00#8,
          [0x33#8, 0x23#8, 0x13#8, 0x03#8, 0x32#8, 0x22#8, 0x12#8, 0x02#8], List.replicate 8 0x00#8]) := by
  decide +kernel

/-- The payload of W9's rectangle frame. -/
def w9 : List Byte := bs [0x02, 0x08, 0x00, 0x01, 0x00, 0x10, 0x00, 0x02, 0x00, 0xA1, 0xA2, 0xB1, 0xB2]

/-- PREV holding `img1`. -/
def img1Prev (s : State) : State := { s with prev := cells img1 }

theorem test_rect_partial_prev :
    (get (exec (.frmRectPartial 0x02#8 8 1 16 2) (img1Prev (fs w9))) prevBytes) =
      some (bs [0x01, 0x02, 0x03, 0x11, 0xA1, 0xA2, 0x21, 0xB1, 0xB2, 0x31, 0x32, 0x33]) := by decide +kernel
theorem test_rect_partial_operations :
    (get (exec (.frmRectPartial 0x02#8 8 1 16 2) (img1Prev (fs w9))) State.pending) =
      some ([.cmd 0x11#8, .data 0x03#8, .cmd 0x44#8, .data 0x01#8, .data 0x01#8, .cmd 0x45#8, .data 0x02#8, .data 0x00#8,
        .data 0x01#8, .data 0x00#8, .cmd 0x4E#8, .data 0x01#8, .cmd 0x4F#8, .data 0x02#8, .data 0x00#8, .cmd 0x24#8,
        .data 0xB1#8, .data 0xA1#8, .cmd 0x26#8, .data 0x22#8, .data 0x12#8, .cmd 0x91#8, .data 0x02#8, .cmd 0xC4#8,
        .data 0x00#8, .data 0x01#8, .cmd 0xC5#8, .data 0x02#8, .data 0x00#8, .data 0x01#8, .data 0x00#8, .cmd 0xCE#8,
        .data 0x00#8, .cmd 0xCF#8, .data 0x02#8, .data 0x00#8, .cmd 0xA4#8, .data 0xB2#8, .data 0xA2#8, .data 0xB1#8,
        .data 0xA1#8, .cmd 0xA6#8, .data 0x23#8, .data 0x13#8, .data 0x22#8, .data 0x12#8, .cmd 0x22#8, .data 0xFF#8,
        .cmd 0x20#8, .wait .part]) := by decide +kernel
theorem test_rect_force :
    (get (exec (.frmRectForce 0x03#8 0 0 8 1) (fs (bs [3, 0, 0, 0, 0, 8, 0, 1, 0, 0]))) fun t =>
      (t.prevByte 0, t.prevByte 1, (planes t)[4]?)) =
      some (some 0x00#8, some 0xFF#8, some (bs [0xFF, 0xFF, 0xFF, 0x00, 0xFF, 0xFF, 0xFF, 0xFF])) := by decide +kernel
theorem test_rect_force_invalid :
    (get (exec (.frmRectForce 0x03#8 3 0 8 1) (fs (bs [3, 3, 0, 0, 0, 8, 0, 1, 0, 0]))) fun t =>
      (t.prev, t.result, t.pending.length)) = some ([], .rejected, 140) := by decide +kernel
theorem test_badshape :
    (get (exec (.badshape 9 (.full 0x31#8)) (fs digits)) fun t => (t.fShape, t.fFlags, t.pq, t.result)) =
      some (.badshape, 0x31#8, [], .rejected) := by decide

theorem test_ack_ok : (get (exec .ackOk rs) fun t => (t.phase, t.ackQ)) = some (.ack, [0x4F#8, 0x4B#8]) := by decide
theorem test_ack_badlen :
    (get (exec .ackBadlen { rs with rxState := .readLength, winCnt := 2 }) fun t => (t.ackQ, t.rxState, t.winCnt)) =
      some ([0x45#8, 0x52#8, 0x4C#8], .seekMagic, 0) := by decide
theorem test_ack_badcrc :
    (get (exec .ackBadcrc { rs with rxState := .readCrc, winCnt := 2 }) fun t => (t.ackQ, t.rxState, t.winCnt)) =
      some ([0x45#8, 0x52#8, 0x43#8], .seekMagic, 0) := by decide

/-- The port record and the data bytes that come next. -/
def port (r : Result) : Option (List PortOp × List Byte) := get r fun t => (t.panelOut, t.dq)

theorem test_swreset : port (exec .opSwreset rs) = some ([.cmd 0x12#8], []) := by decide
theorem test_entry_m : port (exec (.opEntryM 0x03#8) rs) = some ([.cmd 0x11#8], [0x03#8]) := by decide
theorem test_entry_s : port (exec (.opEntryS 0x02#8) rs) = some ([.cmd 0x91#8], [0x02#8]) := by decide
theorem test_colwin_m : port (exec (.opColwinM 0 0x31) rs) = some ([.cmd 0x44#8], [0x00#8, 0x31#8]) := by decide
theorem test_colwin_s : port (exec (.opColwinS 0x30 0x31) rs) = some ([.cmd 0xC4#8], [0x30#8, 0x31#8]) := by decide
theorem test_rowwin_m : port (exec (.opRowwinM 271 0) rs) = some ([.cmd 0x45#8], [0x0F#8, 0x01#8, 0x00#8, 0x00#8]) := by decide
theorem test_rowwin_s : port (exec (.opRowwinS 271 0) rs) = some ([.cmd 0xC5#8], [0x0F#8, 0x01#8, 0x00#8, 0x00#8]) := by decide
theorem test_colcur_m : port (exec (.opColcurM 0x31) rs) = some ([.cmd 0x4E#8], [0x31#8]) := by decide
theorem test_colwin_table : port (exec (.opColwinS 1 2) { rs with cfg := pixels }) = some ([.cmd 0xC4#8], [0x17#8, 0x08#8]) := by
  decide
theorem test_colcur_s : port (exec (.opColcurS 0x30) rs) = some ([.cmd 0xCE#8], [0x30#8]) := by decide
theorem test_rowcur_m : port (exec (.opRowcurM 271) rs) = some ([.cmd 0x4F#8], [0x0F#8, 0x01#8]) := by decide
theorem test_rowcur_s : port (exec (.opRowcurS 271) rs) = some ([.cmd 0xCF#8], [0x0F#8, 0x01#8]) := by decide
theorem test_new_m : port (exec (.opNewM [0xB1#8, 0xA1#8]) rs) = some ([.cmd 0x24#8], [0xB1#8, 0xA1#8]) := by decide
theorem test_new_s : port (exec (.opNewS [0xB2#8]) rs) = some ([.cmd 0xA4#8], [0xB2#8]) := by decide
theorem test_old_m : port (exec (.opOldM [0x22#8]) rs) = some ([.cmd 0x26#8], [0x22#8]) := by decide
theorem test_old_s : port (exec (.opOldS [0x23#8]) rs) = some ([.cmd 0xA6#8], [0x23#8]) := by decide
theorem test_border : port (exec (.opBorder 0x01#8) rs) = some ([.cmd 0x3C#8], [0x01#8]) := by decide
theorem test_tempsrc : port (exec (.opTempsrc 0x80#8) rs) = some ([.cmd 0x18#8], [0x80#8]) := by decide
theorem test_update : port (exec (.opUpdate 0xF7#8) rs) = some ([.cmd 0x22#8], [0xF7#8]) := by decide
theorem test_activate : port (exec .opActivate rs) = some ([.cmd 0x20#8], []) := by decide
theorem test_trig_full :
    (get (exec .trigFull rs) fun t => (t.panelOut, t.pending)) =
      some ([], [.cmd 0x22#8, .data 0xF7#8, .cmd 0x20#8, .wait .full]) := by decide
theorem test_trig_part_single :
    (get (exec .trigPart { rs with cfg := { tcfg with trigForm := .single 0xC7#8 0xCF#8 } }) fun t => (t.panelOut, t.pending)) =
      some ([.cmd 0xCF#8], [.wait .part]) := by decide
theorem test_rst : (get (exec .rst rs) fun t => t.panelOut) = some [.rst] := by decide
theorem test_wait_timeout : (get (exec (.wait .full false) rs) fun t => (t.panelOut, t.waitFail)) = some ([.wait .full], true) := by
  decide
theorem test_wait_idle_keeps : (get (exec (.wait .full true) { rs with waitFail := true }) fun t => t.waitFail) = some true := by
  decide

/-! ### Steps -/

theorem test_step_first :
    (get (step State.reset) fun t => (t.panelOut, t.phase)) = some ([.rst], .bringup) := by decide
/-- R46, R262: `pnl_rst_n` is 1 on the release of reset, and the first step drives the pulse. -/
theorem test_ports_release : State.reset.outputs.pnlRstN = true ∧ (portOutputs Edge.calm State.reset).pnlRstN = false ∧
    (portOutputs { Edge.calm with rst := true } State.reset).pnlRstN = true := by decide
theorem test_step_waits_for_panel :
    (get (step (withEdge { Edge.calm with pnlReady := false } { State.resetOf tcfg with pq := [.swreset] }))
      fun t => (t.panelOut, t.pq)) = some ([], [.swreset]) := by decide
theorem test_step_table_word :
    (get (step (State.reset.withFetchWord 16 0x04D)) fun t => (t.win0, t.winCnt)) = some (0x4D#8, 1) := by decide
theorem test_step_expiry :
    (get (step (withEdge { Edge.calm with expireField := true } { rs with rxState := .readPayload, fldCnt := 1, payCnt := 3 }))
      fun t => (t.rxState, t.winCnt, t.fldCnt, t.phase, t.ackQ)) = some (.seekMagic, 0, 0, .receive, []) := by decide

/-! ### Witnesses: states and operands that meet the hypotheses of the statements, clause by clause -/

theorem witness_DecodeEncodeRoundTrip : tcfg.wf = true ∧ tcfg.readable = true ∧
    (Instr.frmRectForce 0xFF#8 0xFFFF 0xFFFF 0xFFFF 0xFFFF).wf tcfg = true ∧ (Instr.mwf1Frame 2 [0x00#8, 0xFF#8] 5).wf tcfg = true ∧
    (Instr.badshape 0xFFFFFFFF (.rect 0x02#8 0 0 8 1)).wf tcfg = true ∧ (Instr.opRowwinS 0xFFFF 0).wf tcfg = true ∧
    (Instr.opColwinM 255 0).wf tcfg = true ∧ (Instr.opColwinM 256 0).wf tcfg = false := by decide
theorem witness_DecodeEncodeRoundTrip_table : pixels.wf = true ∧ pixels.readable = true ∧ (Instr.opColwinM 0 2).wf pixels = true ∧
    (Instr.opColwinM 0 3).wf pixels = false := by decide +kernel
theorem witness_WireDecodeIsExact : decode tcfg (.wire (wireBytes 1 [0x55#8] 0xFFFFFFFF)) = .ok (.mwf1Frame 1 [0x55#8] 0xFFFFFFFF) := by
  rfl
theorem witness_PanelDecodeIsExact : decode tcfg (.panel [0x44#8, 0x00#8, 0xFF#8]) = .ok (.opColwinM 0 0xFF) := by rfl

theorem witness_FrameKindDecode_legacy : (fs img1).holdsPayload img1 ∧ 9 ≤ img1.length ∧ img1.length ≤ (fs img1).cfg.maxlen ∧
    img1.length = (fs img1).cfg.fb := by unfold State.holdsPayload; decide
theorem witness_FrameKindDecode_full : (fs digits).holdsPayload digits ∧ 9 ≤ digits.length ∧
    digits.length ≤ (fs digits).cfg.maxlen ∧ digits.length ≠ (fs digits).cfg.fb ∧ digits[0]? = some 0x31#8 ∧
    (0x31#8).getLsbD 1 = false := by unfold State.holdsPayload; decide
theorem witness_FrameKindDecode_rect : (fs w9).holdsPayload w9 ∧ 9 ≤ w9.length ∧ w9.length ≤ (fs w9).cfg.maxlen ∧
    w9.length ≠ (fs w9).cfg.fb ∧ w9[0]? = some 0x02#8 ∧ (0x02#8).getLsbD 1 = true := by unfold State.holdsPayload; decide

theorem witness_ReservedFlagBitsIgnored_decode : decode tcfg (.payload 13 [0xFD#8]) = .ok (.frmFullForce 0xFD#8) := by rfl
theorem witness_ReservedFlagBitsIgnored_exec : (Instr.frmFullPartial 0xFC#8).format = .payload ∧
    ∃ t, exec (.frmFullPartial 0xFC#8) { rs with ready := false } = .next t := ⟨rfl, _, rfl⟩
theorem witness_CrcDetectsSingleBitErrors : (7 : Nat) < 8 := by decide

theorem witness_SeekByteSlidesWindow_match :
    let s := { rs with win0 := 0x4D#8, win1 := 0x57#8, win2 := 0x46#8, winCnt := 3 }
    s.winCnt.toNat ≤ 3 ∧ s.window ++ [0x31#8] = [0x4D#8, 0x57#8, 0x46#8, 0x31#8] := by decide
theorem witness_SeekByteSlidesWindow_other :
    (rs.winCnt.toNat ≤ 3 ∧ rs.window ++ [0x31#8] ≠ [0x4D#8, 0x57#8, 0x46#8, 0x31#8]) ∧
    (let s := { rs with winCnt := 3 }
     s.winCnt.toNat = 3 ∧ s.window ++ [0x31#8] ≠ [0x4D#8, 0x57#8, 0x46#8, 0x31#8]) := by decide
theorem witness_FieldBytesAssembleLittleEndian : rs.fldAcc = 0 ∧ rs.fldCnt = 0 ∧ rs.fldCnt.toNat < 3 ∧
    { rs with fldCnt := 2 }.fldCnt.toNat < 3 := by decide

/-- R115's accepted lengths, as the statements spell them. -/
def accepted (n : Nat) : Prop := n = tcfg.fb ∨ n = tcfg.fb + 1 ∨ (9 ≤ n ∧ n ≤ tcfg.fb + 9)

theorem witness_lengths_accepted : accepted 9 ∧ accepted 12 ∧ accepted 13 ∧ accepted 21 := by unfold accepted; decide
theorem witness_lengths_refused : ¬ accepted 0 ∧ ¬ accepted 8 ∧ ¬ accepted 22 ∧ ¬ accepted 0xFFFFFFFF := by
  unfold accepted; decide
theorem witness_LengthAcceptedOrRefused_accept :
    (21#32 : Word) = { rs with fldAcc := 21 }.fldAcc ||| ((0x00#8 : Byte).zeroExtend 32 <<< 24) ∧ accepted (21#32 : Word).toNat := by
  unfold accepted; decide
theorem witness_LengthAcceptedOrRefused_refuse :
    (0x1000009#32 : Word) = { rs with fldAcc := 9 }.fldAcc ||| ((0x01#8 : Byte).zeroExtend 32 <<< 24) ∧
      ¬ accepted (0x1000009#32 : Word).toNat := by unfold accepted; decide
theorem witness_PayloadByteStored : { rs with payCnt := 20, frmLen := 21 }.payCnt < rs.cfg.maxlen ∧ 20 + 1 = (21#32).toNat ∧
    0 + 1 ≠ (21#32).toNat ∧ rs.cfg.maxlen ≤ { rs with payCnt := 21 }.payCnt := by decide
theorem witness_TrailerEmitsOrRefuses :
    (0xCBF43926#32 : Word) = { rs with fldAcc := 0x00F43926#32 }.fldAcc ||| ((0xCB#8 : Byte).zeroExtend 32 <<< 24) ∧
    (0xCBF43926#32 : Word) = ~~~ { rs with crc := 0x340BC6D9#32 }.crc ∧ (0xCBF43926#32 : Word) ≠ ~~~ rs.crc := by decide
theorem witness_frames : rs.phase = .receive ∧ rs.rxState = .seekMagic ∧ rs.winCnt = 0 ∧ digits.length < 2 ^ 32 ∧
    accepted digits.length ∧ digits ≠ [] ∧ rs.env = [] := by unfold accepted; decide
theorem witness_NoiseDoesNotHideFrame : ∀ k, k < [0x4D#8, 0x4D#8, 0x57#8, 0x46#8].length →
    (([0x4D#8, 0x4D#8, 0x57#8, 0x46#8] ++ magic).drop k).take 4 ≠ magic := by decide
theorem witness_FrameBadChecksumRefused : (0xCBF43926#32 : Word) ≠ crc32 (0x30#8 :: digits.tail) := by decide +kernel
theorem witness_FrameBadLengthRefused : rs.phase = .receive ∧ rs.rxState = .seekMagic ∧ rs.winCnt = 0 ∧
    ¬ accepted (22#32 : Word).toNat := by unfold accepted; decide

theorem witness_ReceiveStep_byte :
    let s := { rs with hostQ := [0x4D#8] }
    s.phase = .receive ∧ s.edge.rst = false ∧ s.edge.rxValid = true ∧ s.hostQ = 0x4D#8 :: [] := by decide
theorem witness_ReceiveStep_expiries :
    let quietEdge := { Edge.calm with rxValid := false, expireField := true, expireSeek := true }
    let s := withEdge quietEdge { rs with winCnt := 2 }
    let r := withEdge quietEdge { rs with rxState := .readCrc }
    let held := withEdge { Edge.calm with rxValid := false } { rs with rxState := .readLength }
    (s.phase = .receive ∧ s.edge.rst = false ∧ s.edge.rxValid = false ∧ s.rxState = .seekMagic ∧ s.edge.expireSeek = true) ∧
    (r.phase = .receive ∧ r.edge.rst = false ∧ r.edge.rxValid = false ∧ r.rxState ≠ .seekMagic ∧ r.edge.expireField = true) ∧
    (held.edge.rst = false ∧ held.rxState ≠ .seekMagic ∧ held.edge.expireField = false) ∧
    (rs.phase = .receive ∧ rs.edge.rst = false ∧ rs.hostQ = [] ∧ rs.rxState = .seekMagic ∧ rs.edge.expireSeek = false) := by
  decide
theorem witness_EnteringSeekEmptiesWindow :
    let s := withEdge { Edge.calm with expireField := true } { rs with rxState := .readLength }
    s.rxState ≠ .seekMagic ∧ ∃ t, step s = .next t ∧ t.rxState = .seekMagic := ⟨by decide, _, rfl, rfl⟩

theorem witness_AckByteTransfer :
    let s := { rs with phase := .ack, ackQ := [0x4F#8, 0x4B#8] }
    let last := { rs with phase := .ack, ackQ := [0x4B#8] }
    let held := withEdge { Edge.calm with txReady := false } s
    (s.phase = .ack ∧ s.edge.rst = false ∧ s.ackQ = 0x4F#8 :: [0x4B#8] ∧ s.edge.txReady = true ∧ [0x4B#8] ≠ ([] : List Byte)) ∧
    (last.phase = .ack ∧ last.edge.rst = false ∧ last.ackQ = 0x4B#8 :: [] ∧ last.edge.txReady = true) ∧
    (held.phase = .ack ∧ held.edge.rst = false ∧ held.ackQ = 0x4F#8 :: [0x4B#8] ∧ held.edge.txReady = false) := by decide

theorem witness_ClampedRectangleInPanel : tcfg.wf = true ∧ validate tcfg 16 3 0xFFF8 0xFFFF = true ∧
    validate tcfg 0 0 8 1 = true := by decide
theorem witness_SplitCoversColumns : tcfg.wf = true ∧ 0 ≤ 2 ∧ 2 < tcfg.n ∧ tcfg.ovl = 1 := by decide
theorem witness_ControllerColumnsAscend : tcfg.wf = true ∧ (ctlSpan tcfg .master).1 ≤ 0 ∧ 1 ≤ (ctlSpan tcfg .master).2 ∧
    (ctlSpan tcfg .slave).1 ≤ 1 ∧ 2 ≤ (ctlSpan tcfg .slave).2 := by decide
theorem witness_StreamListsRegionOnce : 1 ≤ 2 ∧ 0 ≤ 3 ∧ tcfg.order = .colMajor := by decide
theorem witness_OverlapColumnSentTwice : 0 ≤ tcfg.ovl ∧ tcfg.ovl ≤ 2 ∧ 0 ≤ 3 := by decide
theorem witness_PlaneByteCounts : tcfg.wf = true ∧ (0 : Nat) ≤ 2 ∧ 2 < tcfg.n ∧ 0 ≤ 3 := by decide

/-- `img1` as a function of the index. -/
def img1At (i : Nat) : Byte := img1.getD i 0#8

theorem witness_PartialFrameDispatch_legacy :
    let s := fs img1
    s.cfg.wf = true ∧ Mem.wf (some s.cfg.white) s.prev = true ∧ s.ready = true ∧ s.shows (fun _ => 0xFF#8) ∧
      s.holdsImage 0 img1At := by unfold State.shows State.holdsImage; decide
theorem witness_image_at_one :
    let s := fs (0x01#8 :: img1)
    s.cfg.wf = true ∧ Mem.wf (some s.cfg.white) s.prev = true ∧ s.ready = true ∧ s.shows (fun _ => 0xFF#8) ∧
      s.holdsImage 1 img1At := by unfold State.shows State.holdsImage; decide
theorem witness_ForcedFrameIsIdempotent :
    let s1 := fs (0x01#8 :: img1)
    let s2 := img1Prev (fs (0x01#8 :: img1))
    s1.cfg = s2.cfg ∧ Mem.wf (some s2.cfg.white) s2.prev = true ∧ s2.ready = true ∧ s2.holdsImage 1 img1At ∧
      s1.prev ≠ s2.prev := by unfold State.holdsImage; decide
theorem witness_rect :
    let s := img1Prev (fs w9)
    s.cfg.wf = true ∧ Mem.wf (some s.cfg.white) s.prev = true ∧ s.ready = true ∧ s.shows img1At ∧
      s.holdsRect ((16#16).toNat / 8 * (2#16).toNat) (fun i => w9.getD (9 + i) 0#8) ∧ validate s.cfg 8 1 16 2 = true ∧
      { cx0 := 1, cx1 := 2, ry0 := 1, ry1 := 2 } = rectCols (clamp s.cfg 8 1 16 2) := by
  unfold State.shows State.holdsRect; decide
theorem witness_InvalidRectangleDispatch :
    let s := img1Prev (fs w9)
    s.cfg.wf = true ∧ s.ready = true ∧ s.shows img1At ∧ validate s.cfg 24 0 8 1 = false ∧ validate s.cfg 0 0 0 1 = false ∧
      validate s.cfg 3 0 8 1 = false := by unfold State.shows; decide
theorem witness_NotReadyDispatch : { rs with ready := false }.ready = false := rfl
theorem witness_PartialAfterFull :
    let s := fs (0x01#8 :: img1)
    ∃ t, exec (.frmFullForce 0x01#8) s = .next t ∧
      let u := { t with frmLen := 13, rxbuf := cells w9 }
      u.cfg = t.cfg ∧ u.prev = t.prev ∧ u.ready = true ∧
        u.holdsRect ((16#16).toNat / 8 * (2#16).toNat) (fun i => w9.getD (9 + i) 0#8) ∧ validate u.cfg 8 1 16 2 = true := by
  refine ⟨_, rfl, rfl, rfl, rfl, ?_, ?_⟩
  · unfold State.holdsRect; decide
  · decide

theorem witness_DispatchEndsWithResult :
    let s := { rs with phase := .dispatch, draining := true }
    let bad := { s with fShape := .badshape }
    let geo := { s with fShape := .rect, fX := 3, fW := 8, fH := 1 }
    (s.phase = .dispatch ∧ s.draining = true ∧ s.pq = [] ∧ s.dq = [] ∧ s.edge.rst = false ∧ s.ready = true ∧
      s.fShape ≠ .badshape ∧ s.fShape ≠ .rect ∧ s.waitFail = false) ∧
    { s with ready := false }.ready = false ∧ { s with waitFail := true }.waitFail = true ∧
    bad.fShape = .badshape ∧ (geo.fShape = .rect ∧ validate geo.cfg geo.fX geo.fY geo.fW geo.fH = false) := by decide
theorem witness_ControllerCommandsSent : rs.cfg.encs = Config.stdEncs ∧
    (∃ rows, pixels.encs.colwin = .table (((0, 0), [0x07#8, 0x00#8]) :: rows)) ∧
    (∃ rows, pixels.encs.rowcur = .table ((0, [0x00#8, 0x00#8]) :: rows)) ∧
    (∃ rows, Enc.table [((3#16, 0#16), [0x03#8])] = .table (((3, 0), [0x03#8]) :: rows)) ∧
    (∃ rows, Enc.table [(2, [0x10#8])] = .table ((2, [0x10#8]) :: rows)) :=
  ⟨rfl, ⟨_, rfl⟩, ⟨_, rfl⟩, ⟨_, rfl⟩, ⟨_, rfl⟩⟩
theorem witness_TriggerThenWait : rs.dq = [] ∧ rs.cfg.trigForm = .split ∧
    { rs with cfg := { tcfg with trigForm := .single 1 2 } }.cfg.trigForm = .single 1 2 := by decide
theorem witness_WaitStep :
    let s := { rs with phase := .bringup, pq := [.wait .init] }
    let both := withEdge { Edge.calm with busyTimeout := true } s
    let late := withEdge { Edge.calm with busyIdle := false, busyTimeout := true } s
    let busy := withEdge { Edge.calm with busyIdle := false } s
    (s.panelActive = true ∧ s.edge.rst = false ∧ s.dq = [] ∧ s.pq = .wait .init :: [] ∧ s.edge.busyIdle = true) ∧
    (both.edge.busyIdle = true ∧ both.edge.busyTimeout = true) ∧
    (late.edge.rst = false ∧ late.edge.busyIdle = false ∧ late.edge.busyTimeout = true) ∧
    (busy.edge.rst = false ∧ busy.edge.busyIdle = false ∧ busy.edge.busyTimeout = false) := by decide
theorem witness_BusyWaitIsBounded : 0 < 5 ∧ 15 / 5 + 2 ≤ [true, true, true, true, true].length ∧
    waitIdle 15 5 0 [true, true, false] = some true := by decide
theorem witness_PanelOperationsKeepOrder :
    let s := { rs with phase := .dispatch, draining := true, dq := [0x55#8], pq := [.trig .full] }
    s.panelActive = true ∧ s.edge.rst = false ∧ (s.dq ≠ [] ∨ s.pq ≠ []) ∧ { s with dq := [] }.pq ≠ [] ∧
      s.dq = 0x55#8 :: [] ∧ s.edge.pnlReady = true := by decide
theorem witness_PanelOperationsKeepOrder_held :
    let s := withEdge { Edge.calm with pnlReady := false } { rs with phase := .dispatch, draining := true, pq := [.swreset] }
    s.panelActive = true ∧ s.edge.rst = false ∧ s.dq = [] ∧ s.pq = .swreset :: [] ∧ s.edge.pnlReady = false ∧
      { s with dq := [0x55#8] }.dq = 0x55#8 :: [] ∧
      { s with cfg := { tcfg with trigForm := .single 1 2 } }.cfg.trigForm ≠ .split := by decide
theorem witness_PortsAreExclusive :
    let s := State.resetOf tcfg
    s.pending.head? = some .rst ∧ { s with dq := [0x55#8] }.pending.head? = some (.data 0x55#8) ∧
      { s with pq := [.swreset] }.pending.head? = some (.cmd 0x12#8) ∧ { s with pq := [.swreset] }.outputs.pnlValid = true ∧
      (portOutputs Edge.calm s).pnlRstN = false := by decide
theorem witness_OneTransferPerStep :
    (∃ t, step State.reset = .next t ∧ t.panelOut = .rst :: State.reset.panelOut) ∧
    (∃ t, step { rs with phase := .ack, ackQ := [0x4B#8] } = .next t ∧ t.ackOut = 0x4B#8 :: rs.ackOut) ∧
    (∃ t, step { rs with hostQ := [0x4D#8] } = .next t ∧ [0x4D#8] = 0x4D#8 :: t.hostQ) :=
  ⟨⟨_, rfl, rfl⟩, ⟨_, rfl, rfl⟩, ⟨_, rfl, rfl⟩⟩

theorem witness_inv_reset : (State.resetOf tcfg).Inv := by
  constructor <;> first | decide | simp [State.resetOf]
theorem witness_inv_receive : rs.Inv := by
  constructor <;> first | decide | simp [State.resetOf, rs]
theorem witness_inv_ack : { rs with phase := .ack, ackQ := [0x4B#8] }.Inv := by
  constructor <;> first | decide | simp [State.resetOf, rs]
theorem witness_inv_frame : (fs digits).Inv := by
  constructor <;> first
    | decide
    | (intro _ _; unfold State.written; decide)
    | simp [State.resetOf, rs, fs]
theorem witness_ReturnsToReadyState :
    { Edge.calm with expireField := true }.fair = true ∧
    { Edge.calm with rxValid := false, expireField := true, busyIdle := false, busyTimeout := true }.fair = true := by decide

theorem witness_ResetWins : (withEdge { Edge.calm with rst := true } rs).edge.rst = true := by decide
theorem witness_BringupEnds :
    let s := { State.resetOf tcfg with pq := [] }
    (s.cfg.wf = true ∧ s.phase = .bringup ∧ s.pq = [] ∧ s.dq = [] ∧ s.edge.rst = false ∧ s.buStage = false ∧
      s.waitFail = false ∧ s.cfg.coldClear = true) ∧
    ({ tcfg with coldClear := false }.wf = true ∧ { tcfg with coldClear := false }.coldClear = false) ∧
    { s with waitFail := true }.waitFail = true ∧ { s with buStage := true }.buStage = true ∧
    ({ s with buStage := true, waitFail := true }.buStage = true ∧ { s with buStage := true, waitFail := true }.waitFail = true) := by
  decide
theorem witness_RegistersHaveOneWriter_ready :
    let s := { State.resetOf { tcfg with coldClear := false } with pq := [] }
    s.edge.rst = false ∧ ∃ t, step s = .next t ∧ t.ready ≠ s.ready := ⟨by decide, _, rfl, by decide⟩
theorem witness_RegistersHaveOneWriter_prev :
    get (step (fs img1)) (fun t => (decide (t.prev ≠ (fs img1).prev), decide (t.fFlags = (fs img1).fFlags))) = some (true, true) := by
  decide +kernel
theorem witness_RegistersHaveOneWriter_descriptor :
    get (step (fs digits)) (fun t => (t.fShape, t.fFlags, (fs digits).fShape)) = some (.badshape, 0x31#8, .legacy) := by
  decide +kernel
theorem witness_RegistersHaveOneWriter_rxbuf :
    get (step { rs with rxState := .readPayload, frmLen := 9, hostQ := [0x31#8] }) (fun t => (t.rxbuf, rs.rxbuf, t.hostQ)) =
      some ([(0, 0x31#8)], [], []) := by decide +kernel
theorem witness_StepRunsDecodedInstruction :
    let byte := { rs with hostQ := [0x4D#8] }
    let op := { State.resetOf tcfg with pq := [.swreset] }
    let done := { rs with phase := .dispatch, draining := true }
    (byte.edge.rst = false ∧ byte.phase = .receive ∧ byte.edge.rxValid = true ∧ byte.hostQ = 0x4D#8 :: []) ∧
    (op.edge.rst = false ∧ op.panelActive = true ∧ op.dq = [] ∧ op.pq = .swreset :: [] ∧ op.edge.pnlReady = true) ∧
    (let trig := withEdge { Edge.calm with pnlReady := false } { op with pq := [.trig .full] }
     trig.edge.rst = false ∧ trig.panelActive = true ∧ trig.dq = [] ∧ trig.pq = .trig .full :: [] ∧ trig.cfg.trigForm = .split) ∧
    (let wait := { op with pq := [.wait .init] }
     wait.pq = .wait .init :: [] ∧ wait.edge.busyIdle = true) ∧
    (done.edge.rst = false ∧ done.phase = .dispatch ∧ done.draining = true ∧ done.pq = [] ∧ done.dq = []) := by decide
theorem witness_StepRunsDecodedInstruction_frame :
    (fs digits).edge.rst = false ∧ (fs digits).phase = .dispatch ∧ (fs digits).draining = false ∧
      decodeFrame (fs digits) = .ok (.badshape 9 (.full 0x31#8)) := ⟨rfl, rfl, rfl, rfl⟩

end Sys2Proof.Tests
end

/-! Which step writes which register: the registers with one writer each (spec/00_scope.md R8, 10_state.md R29,
20_memory.md R78, 44_orchestrator.md R213, 70_reset_and_hazards.md R266), taken out of the state as one record, and what
each operation of a step does to that record. -/

namespace Sys2Proof.Machine

/-! ### The registers with one writer -/

/-- The parameters, and the registers that one part of the block alone writes. -/
structure OwnedRegs where
  /-- the build-time parameters (R8) -/
  cfg : Config
  /-- `ready` (R29) -/
  ready : Bool
  /-- PREV (R37) -/
  prev : Mem
  /-- RXBUF (R36) -/
  rxbuf : Mem
  /-- the descriptor of the frame in dispatch: `f_shape`, `f_flags`, `f_x` to `f_h` (R33) -/
  descriptor : FShape × Byte × Half × Half × Half × Half

/-- The registers of `s` that have one writer. -/
def State.owned (s : State) : OwnedRegs :=
  { cfg := s.cfg, ready := s.ready, prev := s.prev, rxbuf := s.rxbuf
    descriptor := (s.fShape, s.fFlags, s.fX, s.fY, s.fW, s.fH) }

/-! ### What each operation does to them -/

@[simp] theorem sendData_owned (s : State) : (sendData s).owned = s.owned := by
  cases hd : s.dq with
  | nil => rw [sendData_nil hd]
  | cons d ds => rw [sendData_cons hd]; rfl

@[simp] theorem ackTransfer_owned (s : State) : (ackTransfer s).owned = s.owned := by
  cases hq : s.ackQ with
  | nil => rw [ackTransfer_nil hq]
  | cons b rest => rw [ackTransfer_cons hq]; rfl

/-- A panel operation writes none of them. -/
theorem exec_instr_owned {op : PanelOp} {idle : Bool} {s t : State} (h : exec (op.instr idle) s = .next t) :
    t.owned = s.owned := by
  obtain ⟨t', ht', frame⟩ := exec_instr op idle s
  obtain rfl : t' = t := by simpa [ht'] using h
  calc t'.owned = _ := congrArg State.owned frame
    _ = s.owned := rfl

theorem seekByte_owned {b : Byte} {s t : State} (h : seekByte b s = .ok t) : t.owned = s.owned := by
  rcases seekByte_ok h with ⟨-, rfl⟩ | ⟨-, rfl⟩ | ⟨-, rfl⟩ | ⟨-, -, rfl⟩ | ⟨-, -, rfl⟩ <;> rfl

theorem lenLastByte_owned (b : Byte) (s : State) : (lenLastByte b s).owned = s.owned := by
  rcases lenLastByte_cases b s with ⟨-, e⟩ | ⟨-, e⟩ <;> rw [e] <;> rfl

theorem payByte_owned {b : Byte} {s t : State} (h : payByte b s = .ok t) :
    t.owned = { s.owned with rxbuf := t.rxbuf } := by
  obtain ⟨-, ⟨-, rfl⟩ | ⟨-, rfl⟩⟩ := payByte_ok h <;> rfl

theorem crcLastByte_owned (b : Byte) (s : State) : (crcLastByte b s).owned = s.owned := by
  rcases crcLastByte_cases b s with ⟨-, e⟩ | ⟨-, e⟩ <;> rw [e] <;> rfl

/-- A host byte writes RXBUF, in READ_PAYLOAD, and none of the others (R78). -/
theorem receiveByte_owned {b : Byte} {s t : State} (h : receiveByte b s = .ok t) :
    t.owned = s.owned ∨ (s.rxState = .readPayload ∧ t.owned = { s.owned with rxbuf := t.rxbuf }) := by
  unfold receiveByte at h
  cases hx : s.rxState <;> simp only [hx] at h
  case seekMagic => exact .inl (seekByte_owned h)
  case readLength =>
    split_ifs at h <;> cases h
    · exact .inl (lenLastByte_owned b s)
    · exact .inl rfl
  case readPayload => exact .inr ⟨rfl, payByte_owned h⟩
  case readCrc =>
    split_ifs at h <;> cases h
    · exact .inl (crcLastByte_owned b s)
    · exact .inl rfl

/-- The end of bring-up writes `ready`, before the cold-start clear, and none of the others (R173). -/
theorem bringupEnd_owned {s t : State} (h : bringupEnd s = .ok t) :
    t.owned = s.owned ∨ (s.buStage = false ∧ t.owned = { s.owned with ready := t.ready }) := by
  cases hb : s.buStage <;> simp only [bringupEnd, hb, Bool.false_eq_true, if_false, if_true] at h
  · refine .inr ⟨rfl, ?_⟩
    split_ifs at h
    · split at h <;> cases h
      rfl
    · cases h
      rfl
  · cases h
    exact .inl rfl

/-- An action writes PREV, when the block is ready, and none of the others (R205). -/
theorem runAction_owned {act : Action} {s t : State} (h : runAction act s = .next t) :
    t.owned = { s.owned with prev := t.prev } ∧ (s.ready = false → t.prev = s.prev) := by
  rcases runAction_next h with ⟨-, rfl⟩ | ⟨hr, ops, m, -, rfl⟩
  · exact ⟨rfl, fun _ => rfl⟩
  · exact ⟨rfl, fun hn => by simp [hr] at hn⟩

/-- An action behind the descriptor writes of its decode. -/
theorem runAction_begun_owned {act : Action} {s begun t : State}
    (hb : begun.owned = { s.owned with descriptor := begun.owned.descriptor }) (h : runAction act begun = .next t) :
    t.owned = { s.owned with prev := t.prev, descriptor := t.owned.descriptor } ∧
      (s.ready = false → t.prev = s.prev) := by
  obtain ⟨ht, hprev⟩ := runAction_owned h
  have hready : begun.ready = s.ready := congrArg OwnedRegs.ready hb
  have hbegun : begun.prev = s.prev := congrArg OwnedRegs.prev hb
  have hdesc : t.owned.descriptor = begun.owned.descriptor := by rw [ht]
  refine ⟨?_, fun hn => (hprev (hready.trans hn)).trans hbegun⟩
  rw [hdesc, ht, hb]

/-- The start of a dispatch writes the descriptor, and PREV when the block is ready, and none of the others (R213). -/
theorem exec_decodeFrame_owned {i : Instr} {s t : State} (hi : decodeFrame s = .ok i) (h : exec i s = .next t) :
    t.owned = { s.owned with prev := t.prev, descriptor := t.owned.descriptor } ∧
      (s.ready = false → t.prev = s.prev) := by
  rcases decodeFrame_kind hi with ⟨rfl, -⟩ | ⟨f, rfl | rfl, -⟩ | ⟨f, x, y, w, k, rfl | rfl, -⟩ | ⟨len, hdr, rfl⟩
  · exact runAction_begun_owned (act := actPartialFrame 0) (begun := beginFrame .legacy 0x00#8 s) rfl h
  · exact runAction_begun_owned (act := actPartialFrame 1) (begun := beginFrame .full f s) rfl h
  · exact runAction_begun_owned (act := actForceFrame) (begun := beginFrame .full f s) rfl h
  · exact runAction_begun_owned (act := actPartialRect x y w k) (begun := beginRect .rect f x y w k s) rfl h
  · exact runAction_begun_owned (act := actForceRect x y w k) (begun := beginRect .rect f x y w k s) rfl h
  · cases hdr <;> cases h <;> exact ⟨rfl, fun _ => rfl⟩

/-! ### What a step does to them -/

/-- An asserted reset is the whole of its step (R240, R260). -/
theorem step_of_rst {s : State} (hr : s.edge.rst = true) : step s = .next (applyReset s.tick) := by
  simp [step, due, hr]

/-- Everything a step without a reset can do to the registers with one writer: nothing, or the one write of the part of
the block whose turn it is. -/
theorem step_owned {s t : State} (hr : s.edge.rst = false) (h : step s = .next t) :
    t.owned = s.owned ∨
    (s.phase = .receive ∧ s.rxState = .readPayload ∧ t.owned = { s.owned with rxbuf := t.rxbuf }) ∨
    (s.phase = .bringup ∧ s.buStage = false ∧ s.pq = [] ∧ s.dq = [] ∧
      t.owned = { s.owned with ready := t.ready }) ∨
    (s.phase = .dispatch ∧ s.draining = false ∧
      t.owned = { s.owned with prev := t.prev, descriptor := t.owned.descriptor } ∧
      (s.ready = false → t.prev = s.prev)) := by
  cases step_next h with
  | reset hrst => simp [hr] at hrst
  | idle | field | seek | done => exact .inl rfl
  | data => exact .inl (sendData_owned s.tick)
  | ack => exact .inl (ackTransfer_owned s.tick)
  | panel _ _ _ _ _ hx =>
    have e := exec_instr_owned hx
    exact .inl e
  | byte _ hp _ _ hx => exact (receiveByte_owned hx).imp_right fun ⟨hpay, e⟩ => .inl ⟨hp, hpay, e⟩
  | bringup _ hp hd hq hx =>
    exact (bringupEnd_owned hx).imp_right fun ⟨hbu, e⟩ => .inr (.inl ⟨hp, hbu, hq, hd, e⟩)
  | frame _ hp hg hi hx =>
    obtain ⟨e, hprev⟩ := exec_decodeFrame_owned hi hx
    exact .inr (.inr (.inr ⟨hp, hg, e, hprev⟩))

/-- Settles O54: a reset keeps the parameters, and each thing a step without a reset can do to the registers with one
writer is the write of that register's owner. -/
theorem registersHaveOneWriter : Obligations.RegistersHaveOneWriter := by
  unfold Obligations.RegistersHaveOneWriter
  intro s t h
  cases hr : s.edge.rst
  case true =>
    obtain rfl : applyReset s.tick = t := by simpa [step_of_rst hr] using h
    exact ⟨rfl, nofun⟩
  case false =>
    rcases step_owned hr h with e | ⟨hp, hpay, e⟩ | ⟨hp, hbu, hq, hd, e⟩ | ⟨hp, hg, e, hprev⟩
    all_goals refine ⟨congrArg OwnedRegs.cfg e, fun _ => ?_⟩
    · exact ⟨absurd (congrArg OwnedRegs.ready e), absurd (congrArg OwnedRegs.prev e),
        absurd (congrArg OwnedRegs.rxbuf e), absurd (congrArg OwnedRegs.descriptor e)⟩
    · exact ⟨absurd (congrArg OwnedRegs.ready e), absurd (congrArg OwnedRegs.prev e), fun _ => ⟨hp, hpay⟩,
        absurd (congrArg OwnedRegs.descriptor e)⟩
    · exact ⟨fun _ => ⟨hp, hbu, hq, hd⟩, absurd (congrArg OwnedRegs.prev e), absurd (congrArg OwnedRegs.rxbuf e),
        absurd (congrArg OwnedRegs.descriptor e)⟩
    · refine ⟨absurd (congrArg OwnedRegs.ready e), fun hw => ⟨hp, hg, ?_⟩, absurd (congrArg OwnedRegs.rxbuf e),
        fun _ => ⟨hp, hg⟩⟩
      exact Bool.eq_true_of_not_eq_false fun hn => hw (hprev hn)

end Sys2Proof.Machine

/-! The invariant of Safety.lean: it holds after a reset, and each operation of a step keeps it (spec/10_state.md R23 to R37,
spec/20_memory.md R63, R71). A proof names the clauses that the operation can touch; the others carry over as they are. -/

namespace Sys2Proof.Machine

section
variable {s t : State}

/-! ### Reset -/

theorem State.resetOf_inv {c : Config} (hc : c.wf = true) : (State.resetOf c).Inv where
  params := hc
  rxbufForm := (State.resetOf_mem_wf c).1
  rxbufRange := nofun
  prevForm := (State.resetOf_mem_wf c).2
  prevRange := nofun
  window := Nat.zero_le _
  payRange := Nat.zero_le _
  payload := nofun
  trailer := nofun
  frame := nofun
  seek := fun _ => ⟨rfl, rfl⟩
  queue := nofun
  ack := by simp
  ackLength := Nat.zero_le _
  drain := nofun
  notReady := fun _ _ => rfl
  clear := nofun

theorem applyReset_inv (h : s.Inv) : (applyReset s).Inv := { State.resetOf_inv h.params with }

/-! ### The inputs of a step, and what the phase says of the other registers -/

theorem State.tick_inv (h : s.Inv) : s.tick.Inv := { h with }

theorem hostQ_inv (h : s.Inv) (q : List Byte) : { s with hostQ := q }.Inv := { h with }

/-- Outside DISPATCH nothing drains. -/
theorem State.Inv.draining_of_phase (h : s.Inv) (hp : s.phase ≠ .dispatch) : s.draining = false :=
  Bool.eq_false_iff.2 fun hg => hp (h.drain hg)

/-- Outside ACK nothing waits to be acknowledged. -/
theorem State.Inv.ackQ_of_phase (h : s.Inv) (hp : s.phase ≠ .ack) : s.ackQ = [] :=
  not_not.1 fun hq => hp (h.ack.2 hq)

theorem State.panelActive_of_receive (hp : s.phase = .receive) : s.panelActive = false := by
  simp [State.panelActive, hp]

theorem State.panelActive_of_ack (hp : s.phase = .ack) : s.panelActive = false := by
  simp [State.panelActive, hp]

/-! ### The bytes of a frame -/

theorem seekByte_inv {b : Byte} (h : s.Inv) (hp : s.phase = .receive) (ht : seekByte b s = .ok t) : t.Inv := by
  rcases seekByte_ok ht with ⟨-, rfl⟩ | ⟨-, rfl⟩ | ⟨-, rfl⟩ | ⟨-, -, rfl⟩ | ⟨-, -, rfl⟩
  case inr.inr.inr.inl =>
    exact { h with window := by simp, payload := nofun, trailer := nofun, seek := absurd hp }
  all_goals exact { h with window := by simp, seek := absurd hp }

theorem fieldByte_inv (h : s.Inv) (b : Byte) : (fieldByte b s).Inv := { h with }

/-- The response to a refused frame (E2, E3) keeps the invariant: an acknowledgement in ACK, the receiver in SEEK_MAGIC. -/
theorem refuse_inv (h : s.Inv) (hp : s.phase = .receive) (code : Byte) :
    { s with
      fldCnt := 0, ackQ := s.cfg.errPrefix ++ [code], phase := .ack, rxState := .seekMagic, winCnt := 0 }.Inv :=
  { h with
    window := Nat.zero_le _
    payload := nofun
    trailer := nofun
    frame := nofun
    seek := fun _ => ⟨rfl, rfl⟩
    queue := fun _ => h.queue (State.panelActive_of_receive hp)
    ack := by simp
    ackLength := (ackBytes_length h.params code).2
    drain := fun hg => absurd (h.drain hg) (by simp [hp])
    notReady := nofun }

theorem lenLastByte_inv (h : s.Inv) (hp : s.phase = .receive) (b : Byte) : (lenLastByte b s).Inv := by
  rcases lenLastByte_cases b s with ⟨ha, e⟩ | ⟨-, e⟩ <;> rw [e]
  · have hpos : 0 < (fieldLast b s).toNat := by have := acceptLen_bounds h.params ha; omega
    exact { h with
      payRange := Nat.zero_le _
      payload := fun _ => ⟨ha, hpos, nofun⟩
      trailer := nofun
      frame := fun hd => absurd hd (by simp [hp])
      seek := absurd hp }
  · exact refuse_inv h hp _

/-- A byte stored at the end of the bytes that hold values makes them one more (R116). -/
theorem written_of_store {n : Nat} {b : Byte} (hw : s.written n) (hn : n < s.cfg.maxlen) (ht : t.cfg = s.cfg)
    (hr : t.rxbuf = Mem.put none s.rxbuf n b) : t.written (n + 1) := by
  intro a ha
  by_cases hab : a = n
  · simp [State.rxByte, ht, hr, Mem.read_put_none, hab, hn]
  · have := hw a (by omega)
    simpa [State.rxByte, ht, hr, Mem.read_put_none, hab] using this

theorem payByte_inv {b : Byte} (h : s.Inv) (hp : s.phase = .receive) (hx : s.rxState = .readPayload)
    (ht : payByte b s = .ok t) : t.Inv := by
  obtain ⟨ha, hlt, hw⟩ := h.payload hx
  obtain ⟨hmax, hlast | hmore⟩ := payByte_ok ht
  all_goals
    have hform : Mem.wf none (Mem.put none s.rxbuf s.payCnt b) = true := Mem.wf_put h.rxbufForm _ _
    have hrange : ∀ c ∈ Mem.put none s.rxbuf s.payCnt b, c.1 < s.cfg.maxlen := fun c hc =>
      (Mem.mem_put hc).elim (fun e => e ▸ hmax) (h.rxbufRange c)
  · obtain ⟨hlen, rfl⟩ := hlast
    exact { h with
      rxbufForm := hform
      rxbufRange := hrange
      payRange := hmax
      payload := nofun
      trailer := fun _ => ⟨ha, hlen, hlen ▸ written_of_store hw hmax rfl rfl⟩
      frame := fun hd => absurd hd (by simp [hp])
      seek := absurd hp }
  · obtain ⟨hlen, rfl⟩ := hmore
    exact { h with
      rxbufForm := hform
      rxbufRange := hrange
      payRange := hmax
      payload := fun _ => ⟨ha, by dsimp only; omega, written_of_store hw hmax rfl rfl⟩
      trailer := fun hc => absurd hc (by simp [hx])
      frame := fun hd => absurd hd (by simp [hp])
      seek := absurd hp }

theorem crcLastByte_inv (h : s.Inv) (hp : s.phase = .receive) (hx : s.rxState = .readCrc) (b : Byte) :
    (crcLastByte b s).Inv := by
  rcases crcLastByte_cases b s with ⟨-, e⟩ | ⟨-, e⟩ <;> rw [e]
  · obtain ⟨ha, -, hw⟩ := h.trailer hx
    exact { h with
      window := Nat.zero_le _
      payload := nofun
      trailer := nofun
      frame := fun _ _ => ⟨ha, hw⟩
      seek := fun _ => ⟨rfl, rfl⟩
      queue := fun _ => h.queue (State.panelActive_of_receive hp)
      ack := by simp [h.ackQ_of_phase (by simp [hp])]
      drain := nofun
      notReady := nofun }
  · exact refuse_inv h hp _

/-- Every host byte taken in RECEIVE keeps the invariant. -/
theorem receiveByte_inv {b : Byte} (h : s.Inv) (hp : s.phase = .receive) (ht : receiveByte b s = .ok t) : t.Inv := by
  unfold receiveByte at ht
  cases hx : s.rxState <;> simp only [hx] at ht
  case seekMagic => exact seekByte_inv h hp ht
  case readLength =>
    split_ifs at ht <;> cases ht
    · exact lenLastByte_inv h hp b
    · exact fieldByte_inv h b
  case readPayload => exact payByte_inv h hp hx ht
  case readCrc =>
    split_ifs at ht <;> cases ht
    · exact crcLastByte_inv h hp hx b
    · exact fieldByte_inv h b

/-! ### Expiries -/

theorem transportTimeout_inv (h : s.Inv) : (raiseCond .transportTimeout s).Inv :=
  { h with
    window := Nat.zero_le _
    payload := nofun
    trailer := nofun
    seek := fun _ => ⟨rfl, rfl⟩ }

theorem expireSeek_inv (h : s.Inv) : (expireSeek s).Inv :=
  { h with
    window := Nat.zero_le _
    seek := fun hn => ⟨(h.seek hn).1, rfl⟩ }

/-! ### The panel port -/

/-- While the panel port works, the queue, the port record and `wait_fail` may change freely. -/
theorem State.Inv.of_panel_frame (h : s.Inv) (ha : s.panelActive = true)
    (frame : t = { s with pq := t.pq, dq := t.dq, panelOut := t.panelOut, waitFail := t.waitFail }) : t.Inv := by
  rw [frame]
  exact { h with queue := fun hn => absurd (ha.symm.trans hn) nofun }

theorem sendData_inv (h : s.Inv) (ha : s.panelActive = true) : (sendData s).Inv := by
  cases hd : s.dq with
  | nil => rwa [sendData_nil hd]
  | cons d ds => rw [sendData_cons hd]; exact h.of_panel_frame ha rfl

theorem exec_instr_inv {op : PanelOp} {ops : List PanelOp} {idle : Bool} (h : s.Inv) (ha : s.panelActive = true)
    (ht : exec (op.instr idle) { s with pq := ops } = .next t) : t.Inv := by
  obtain ⟨t', ht', frame⟩ := exec_instr op idle { s with pq := ops }
  obtain rfl : t' = t := by simpa [ht'] using ht
  exact h.of_panel_frame ha frame

/-! ### The end of bring-up -/

theorem enterReceive_inv (h : s.Inv) (hp : s.phase = .bringup) (hq : s.pq = []) (hd : s.dq = []) : (enterReceive s).Inv :=
  { h with
    frame := nofun
    seek := absurd rfl
    queue := fun _ => ⟨hq, hd⟩
    ack := by simp [h.ackQ_of_phase (by simp [hp])]
    drain := fun hg => absurd (h.drain hg) (by simp [hp])
    notReady := nofun }

theorem bringupEnd_inv (h : s.Inv) (hp : s.phase = .bringup) (hq : s.pq = []) (hd : s.dq = [])
    (ht : bringupEnd s = .ok t) : t.Inv := by
  rcases bringupEnd_cases h.params with ⟨-, e⟩ | ⟨-, -, -, e⟩ | ⟨hb, -, e⟩ <;> cases e.symm.trans ht
  · exact enterReceive_inv h hp hq hd
  · have ha : s.panelActive = true := by simp [State.panelActive, hp]
    exact { h with
      queue := fun hn => absurd (ha.symm.trans hn) nofun
      notReady := nofun
      clear := fun _ => rfl }
  · exact { enterReceive_inv h hp hq hd with
      notReady := nofun
      clear := fun hn => absurd (hb.symm.trans hn) nofun }

/-! ### The start of a dispatch -/

/-- PREV is canonical, inside its addresses (R37, R71). -/
def PrevForm (c : Config) (m : Mem) : Prop := Mem.wf (some c.white) m = true ∧ ∀ d ∈ m, d.1 < c.fb

theorem State.Inv.prevOk (h : s.Inv) : PrevForm s.cfg s.prev := ⟨h.prevForm, h.prevRange⟩

/-- The PREV that an action leaves is canonical and inside its addresses if the PREV it met was. -/
def Action.KeepsPrevForm (act : Action) : Prop :=
  ∀ (s : State) (ops : List PanelOp) (m : Mem), act s = .ok (ops, m) → PrevForm s.cfg s.prev → PrevForm s.cfg m

theorem actPartialFrame_prevForm (off : Nat) : (actPartialFrame off).KeepsPrevForm := fun _ _ _ ha hm =>
  storeImage_wf (renderThen_ok.1 ha).2 hm.1 hm.2

theorem actForceFrame_prevForm : Action.KeepsPrevForm actForceFrame := fun _ _ _ ha hm =>
  storeImage_wf (renderThen_ok.1 ha).2 hm.1 hm.2

theorem actPartialRect_prevForm (x y w k : Half) : (actPartialRect x y w k).KeepsPrevForm := by
  intro s ops m ha hm
  unfold actPartialRect at ha
  split_ifs at ha
  · exact patchPrev_wf (renderThen_ok.1 ha).2 hm.1 hm.2
  · cases ha; exact hm

theorem actForceRect_prevForm (x y w k : Half) : (actForceRect x y w k).KeepsPrevForm := by
  intro s ops m ha hm
  unfold actForceRect at ha
  split at ha
  · cases ha
  · next n hn =>
    cases (renderThen_ok.1 ha).2
    split_ifs at hn
    · exact patchPrev_wf hn hm.1 hm.2
    · cases hn; exact hm

theorem beginFrame_inv (h : s.Inv) (hp : s.phase = .dispatch) (shape : FShape) (flags : Byte) :
    (beginFrame shape flags s).Inv :=
  { h with
    frame := nofun
    queue := fun hn => absurd hn (by simp [State.panelActive, hp])
    drain := fun _ => hp }

theorem beginRect_inv (h : s.Inv) (hp : s.phase = .dispatch) (shape : FShape) (flags : Byte) (x y w k : Half) :
    (beginRect shape flags x y w k s).Inv := { beginFrame_inv h hp shape flags with }

theorem runAction_inv {act : Action} (hact : act.KeepsPrevForm) (h : s.Inv) (hp : s.phase = .dispatch)
    (hg : s.draining = true) (ht : runAction act s = .next t) : t.Inv := by
  rcases runAction_next ht with ⟨-, rfl⟩ | ⟨-, ops, m, ha, rfl⟩
  · exact h
  · obtain ⟨hform, hrange⟩ := hact s ops m ha h.prevOk
    exact { h with
      prevForm := hform
      prevRange := hrange
      queue := fun hn => absurd hn (by simp [State.panelActive, hp, hg]) }

/-- The start of a dispatch: the descriptor is written, and then a frame that is no BADSHAPE runs an action. -/
theorem exec_decodeFrame_begun {i : Instr} (hi : decodeFrame s = .ok i) (ht : exec i s = .next t) :
    ∃ begun, ((∃ shape flags, begun = beginFrame shape flags s) ∨
        ∃ shape flags x y w k, begun = beginRect shape flags x y w k s) ∧
      (t = begun ∨ ∃ act : Action, act.KeepsPrevForm ∧ runAction act begun = .next t) := by
  rcases decodeFrame_kind hi with ⟨rfl, -⟩ | ⟨f, rfl | rfl, -⟩ | ⟨f, x, y, w, k, rfl | rfl, -⟩ | ⟨len, hdr, rfl⟩
  · exact ⟨_, .inl ⟨_, _, rfl⟩, .inr ⟨_, actPartialFrame_prevForm 0, ht⟩⟩
  · exact ⟨_, .inl ⟨_, _, rfl⟩, .inr ⟨_, actPartialFrame_prevForm 1, ht⟩⟩
  · exact ⟨_, .inl ⟨_, _, rfl⟩, .inr ⟨_, actForceFrame_prevForm, ht⟩⟩
  · exact ⟨_, .inr ⟨_, _, _, _, _, _, rfl⟩, .inr ⟨_, actPartialRect_prevForm x y w k, ht⟩⟩
  · exact ⟨_, .inr ⟨_, _, _, _, _, _, rfl⟩, .inr ⟨_, actForceRect_prevForm x y w k, ht⟩⟩
  · cases hdr <;> cases ht
    · exact ⟨_, .inl ⟨_, _, rfl⟩, .inl rfl⟩
    · exact ⟨_, .inr ⟨_, _, _, _, _, _, rfl⟩, .inl rfl⟩

/-- Every frame kind that a decode answers keeps the invariant. -/
theorem exec_decodeFrame_inv {i : Instr} (h : s.Inv) (hp : s.phase = .dispatch) (hi : decodeFrame s = .ok i)
    (ht : exec i s = .next t) : t.Inv := by
  obtain ⟨begun, hbegun, hend⟩ := exec_decodeFrame_begun hi ht
  have hb : begun.Inv ∧ begun.phase = .dispatch ∧ begun.draining = true := by
    rcases hbegun with ⟨shape, flags, rfl⟩ | ⟨shape, flags, x, y, w, k, rfl⟩
    · exact ⟨beginFrame_inv h hp shape flags, hp, rfl⟩
    · exact ⟨beginRect_inv h hp shape flags x y w k, hp, rfl⟩
  obtain ⟨hinv, hphase, hdrain⟩ := hb
  rcases hend with rfl | ⟨act, hact, hrun⟩
  · exact hinv
  · exact runAction_inv hact hinv hphase hdrain hrun

/-! ### Acknowledgements -/

/-- The end of a dispatch, with its acknowledgement (R212). -/
theorem ackOk_inv (h : s.Inv) (hp : s.phase = .dispatch) (hq : s.pq = []) (hd : s.dq = []) :
    (sendAck ackOkBytes (endDispatch s)).Inv :=
  { h with
    frame := nofun
    seek := fun _ => h.seek (by simp [hp])
    queue := fun _ => ⟨hq, hd⟩
    ack := by simp [ackOkBytes]
    ackLength := by simp [ackOkBytes]
    drain := nofun
    notReady := nofun }

theorem ackTransfer_inv (h : s.Inv) (hp : s.phase = .ack) : (ackTransfer s).Inv := by
  have hg : s.draining = false := h.draining_of_phase (by simp [hp])
  have hqueue : s.pq = [] ∧ s.dq = [] := h.queue (State.panelActive_of_ack hp)
  have hseek : s.rxState = .seekMagic ∧ s.winCnt = 0 := h.seek (by simp [hp])
  cases hk : s.ackQ with
  | nil => rwa [ackTransfer_nil hk]
  | cons b rest =>
    have hlen : rest.length ≤ 3 := by have := h.ackLength; simp only [hk, List.length_cons] at this; omega
    rw [ackTransfer_cons hk]
    cases rest with
    | nil =>
      exact { h with
        frame := nofun
        seek := absurd rfl
        queue := fun _ => hqueue
        ack := by simp
        ackLength := hlen
        drain := fun hn => absurd (hg.symm.trans hn) nofun
        notReady := nofun }
    | cons b' rest =>
      exact { h with ack := by simp [hp], ackLength := hlen }

/-! ### Every step -/

/-- Everything a step that goes on can have done keeps the invariant. -/
theorem Did.inv (h : s.Inv) (hd : Did s t) : t.Inv := by
  have htick := State.tick_inv h
  cases hd with
  | reset => exact applyReset_inv htick
  | idle => exact htick
  | byte _ hp _ _ ht => exact receiveByte_inv (hostQ_inv htick _) hp ht
  | field => exact transportTimeout_inv htick
  | seek => exact expireSeek_inv htick
  | data _ ha => exact sendData_inv htick ha
  | panel _ ha _ _ _ ht => exact exec_instr_inv htick ha ht
  | bringup _ hp hd hq ht => exact bringupEnd_inv htick hp hq hd ht
  | frame _ hp _ hi ht => exact exec_decodeFrame_inv htick hp hi ht
  | done _ hp _ hd hq => exact ackOk_inv htick hp hq hd
  | ack _ hp => exact ackTransfer_inv htick hp

end

/-- Settles O57: the reset state lists no byte, waits for no frame and has only the bring-up operations queued. -/
theorem resetMeetsInvariant : Obligations.ResetMeetsInvariant := by
  unfold Obligations.ResetMeetsInvariant
  exact fun _ hc => State.resetOf_inv hc

/-- Settles O58: a step has done one of the things `Did` names, and each keeps the invariant. -/
theorem stepKeepsInvariant : Obligations.StepKeepsInvariant := by
  unfold Obligations.StepKeepsInvariant
  exact fun _ _ h ht => (step_next ht).inv h

end Sys2Proof.Machine

/-! The bytes upstream of the receive port: no operation but the transfer of a host byte takes one (spec/10_state.md R41,
70_reset_and_hazards.md R268). -/

namespace Sys2Proof.Machine

section
variable {s t : State}

@[simp] theorem sendData_hostQ (s : State) : (sendData s).hostQ = s.hostQ := by
  cases hd : s.dq with
  | nil => rw [sendData_nil hd]
  | cons d ds => rw [sendData_cons hd]

@[simp] theorem ackTransfer_hostQ (s : State) : (ackTransfer s).hostQ = s.hostQ := by
  cases hq : s.ackQ with
  | nil => rw [ackTransfer_nil hq]
  | cons b rest => rw [ackTransfer_cons hq]

theorem exec_instr_hostQ {op : PanelOp} {idle : Bool} (h : exec (op.instr idle) s = .next t) : t.hostQ = s.hostQ := by
  obtain ⟨t', ht', frame⟩ := exec_instr op idle s
  obtain rfl : t' = t := by simpa [ht'] using h
  rw [frame]

theorem bringupEnd_hostQ (h : bringupEnd s = .ok t) : t.hostQ = s.hostQ := by
  cases hb : s.buStage <;> simp only [bringupEnd, hb, Bool.false_eq_true, if_false, if_true] at h
  · split_ifs at h
    · split at h <;> cases h
      rfl
    · cases h; rfl
  · cases h; rfl

theorem runAction_hostQ {act : Action} (h : runAction act s = .next t) : t.hostQ = s.hostQ := by
  rcases runAction_next h with ⟨-, rfl⟩ | ⟨-, ops, m, -, rfl⟩ <;> rfl

theorem exec_decodeFrame_hostQ {i : Instr} (hi : decodeFrame s = .ok i) (h : exec i s = .next t) :
    t.hostQ = s.hostQ := by
  obtain ⟨begun, hbegun, hend⟩ := exec_decodeFrame_begun hi h
  have hb : begun.hostQ = s.hostQ := by
    rcases hbegun with ⟨shape, flags, rfl⟩ | ⟨shape, flags, x, y, w, k, rfl⟩ <;> rfl
  rcases hend with rfl | ⟨act, -, hrun⟩
  · exact hb
  · exact (runAction_hostQ hrun).trans hb

/-- A step takes a host byte only in RECEIVE, without a reset, where the host offers it. -/
theorem Did.hostQ (hd : Did s t) :
    t.hostQ = s.hostQ ∨ (s.phase = .receive ∧ s.edge.rst = false ∧ s.edge.rxValid = true) := by
  cases hd with
  | byte hr hp hv => exact .inr ⟨hp, hr, hv⟩
  | reset | idle | field | seek | done => exact .inl rfl
  | data => exact .inl (sendData_hostQ s.tick)
  | ack => exact .inl (ackTransfer_hostQ s.tick)
  | panel _ _ _ _ _ h =>
    have e := exec_instr_hostQ h
    exact .inl e
  | bringup _ _ _ _ h =>
    have e := bringupEnd_hostQ h
    exact .inl e
  | frame _ _ _ hi h =>
    have e := exec_decodeFrame_hostQ hi h
    exact .inl e

end

/-- Settles O55: whatever else a step did, it left the host's bytes. -/
theorem hostBytesHeldOutsideReceive : Obligations.HostBytesHeldOutsideReceive := by
  unfold Obligations.HostBytesHeldOutsideReceive
  intro s t h hne
  exact (step_next h).hostQ.resolve_left hne

end Sys2Proof.Machine

/-! The output ports (spec/10_state.md R41 to R45): what the panel port offers is the head of the panel operations still to be
performed, and the levels at reset. -/

namespace Sys2Proof.Machine

/-! ### The first panel operation of a queue item -/

/-- An item with a command byte begins with it. -/
theorem PanelOp.head?_portOps_of_commandByte {c : Config} {op : PanelOp} {b : Byte} (h : op.commandByte c = some b) :
    (op.portOps c).head? = some (.cmd b) := by
  cases op with
  | trig k =>
    cases hf : c.trigForm with
    | split => simp [PanelOp.commandByte, hf] at h
    | single f p => cases k <;> simpa [PanelOp.commandByte, PanelOp.portOps, trigPortOps, trigSingle, hf] using h
  | rst | wait t => cases h
  | _ => cases h; rfl

/-- An item without a command byte is a trigger in the split form, a reset pulse or a wait. -/
theorem PanelOp.commandByte_eq_none {c : Config} {op : PanelOp} (h : op.commandByte c = none) :
    (c.trigForm = .split ∧ ∃ k, op = .trig k) ∨ op = .rst ∨ ∃ t, op = .wait t := by
  cases op with
  | trig k =>
    cases hf : c.trigForm with
    | split => exact .inl ⟨rfl, k, rfl⟩
    | single f p => simp [PanelOp.commandByte, hf] at h
  | rst => exact .inr (.inl rfl)
  | wait t => exact .inr (.inr ⟨t, rfl⟩)
  | _ => cases h

theorem trigPortOps_split_head? {c : Config} (h : c.trigForm = .split) (k : TrigKind) (ops : List PortOp) :
    (trigPortOps c k ++ ops).head? = some (.cmd c.opcodes.update) := by
  cases k <;> simp [trigPortOps, h, Opcodes.byte]

/-- How an item begins: with its command byte, with `OP_UPDATE` of a trigger in the split form, with the pulse or with the
wait. -/
theorem PanelOp.head?_portOps_cases (c : Config) (op : PanelOp) :
    (∃ b, op.commandByte c = some b ∧ (op.portOps c).head? = some (.cmd b)) ∨
    (op.commandByte c = none ∧ c.trigForm = .split ∧ (∃ k, op = .trig k) ∧
      (op.portOps c).head? = some (.cmd c.opcodes.update)) ∨
    (op = .rst ∧ (op.portOps c).head? = some .rst) ∨
    ∃ t, op = .wait t ∧ (op.portOps c).head? = some (.wait t) := by
  cases hb : op.commandByte c with
  | some b => exact .inl ⟨b, rfl, PanelOp.head?_portOps_of_commandByte hb⟩
  | none =>
    rcases PanelOp.commandByte_eq_none hb with ⟨hf, k, rfl⟩ | rfl | ⟨t, rfl⟩
    · exact .inr (.inl ⟨rfl, hf, ⟨k, rfl⟩, trigPortOps_split_head? hf k _⟩)
    · exact .inr (.inr (.inl ⟨rfl, rfl⟩))
    · exact .inr (.inr (.inr ⟨t, rfl, rfl⟩))

/-! ### The head of the panel operations still to be performed -/

section
variable {s : State}

theorem State.pending_head?_of_dq {d : Byte} {ds : List Byte} (hd : s.dq = d :: ds) :
    s.pending.head? = some (.data d) := by
  simp [State.pending, hd]

theorem State.pending_head?_of_pq {op : PanelOp} {ops : List PanelOp} (hd : s.dq = []) (hq : s.pq = op :: ops) :
    s.pending.head? = (op.portOps s.cfg).head? := by
  have hne : op.portOps s.cfg ≠ [] := by
    intro h0
    rcases op.head?_portOps_cases s.cfg with ⟨b, -, hh⟩ | ⟨-, -, -, hh⟩ | ⟨-, hh⟩ | ⟨t, -, hh⟩ <;> simp [h0] at hh
  simp [State.pending, hd, hq, List.head?_append_of_ne_nil _ hne]

end

/-- The panel port between steps: nothing is queued, a data byte is offered, a command byte is offered, or the head of the
queue needs no byte of the port. -/
inductive PanelPort (s : State) : Prop
  /-- nothing to perform -/
  | empty (hh : s.pending.head? = none) (ho : s.panelOffer = none) (hr : s.resetDriven = false)
  /-- a data byte of the command last sent (R88) -/
  | data (ha : s.panelActive = true) (d : Byte) (hh : s.pending.head? = some (.data d))
      (ho : s.panelOffer = some (true, d)) (hr : s.resetDriven = false)
  /-- a command byte -/
  | command (ha : s.panelActive = true) (b : Byte) (hh : s.pending.head? = some (.cmd b))
      (ho : s.panelOffer = some (false, b)) (hr : s.resetDriven = false)
  /-- a trigger in the split form, which is a step of its own (log 9) -/
  | trigger (hf : s.cfg.trigForm = .split) (k : TrigKind) (ops : List PanelOp) (hq : s.pq = .trig k :: ops)
      (hh : s.pending.head? = some (.cmd s.cfg.opcodes.update)) (ho : s.panelOffer = none) (hr : s.resetDriven = false)
  /-- a reset pulse (R44) -/
  | pulse (hh : s.pending.head? = some .rst) (ho : s.panelOffer = none) (hr : s.resetDriven = true)
  /-- a wait (R170) -/
  | wait (t : WaitBound) (hh : s.pending.head? = some (.wait t)) (ho : s.panelOffer = none) (hr : s.resetDriven = false)

/-- What the panel port does in a state that meets the invariant is told by the heads of its two queues. -/
theorem State.Inv.panelPort {s : State} (h : s.Inv) : PanelPort s := by
  cases ha : s.panelActive with
  | false =>
    obtain ⟨hq, hd⟩ := h.queue ha
    exact .empty (by simp [State.pending, hq, hd]) (by simp [State.panelOffer, ha]) (by simp [State.resetDriven, ha])
  | true =>
    cases hd : s.dq with
    | cons d ds =>
      exact .data ha d (State.pending_head?_of_dq hd) (by simp [State.panelOffer, ha, hd]) (by simp [State.resetDriven, hd])
    | nil =>
      cases hq : s.pq with
      | nil =>
        exact .empty (by simp [State.pending, hq, hd]) (by simp [State.panelOffer, hq, hd])
          (by simp [State.resetDriven, hq, hd])
      | cons op ops =>
        have hhead := State.pending_head?_of_pq hd hq
        have hoffer : s.panelOffer = (op.commandByte s.cfg).map fun b => (false, b) := by
          simp [State.panelOffer, ha, hd, hq]
        have hpulse : s.resetDriven = true ↔ op = .rst := by
          cases op <;> simp [State.resetDriven, ha, hd, hq]
        rcases op.head?_portOps_cases s.cfg with ⟨b, hb, hh⟩ | ⟨hb, hf, ⟨k, rfl⟩, hh⟩ | ⟨rfl, hh⟩ | ⟨t, rfl, hh⟩
        · refine .command ha b (hhead.trans hh) (by simp [hoffer, hb]) (Bool.eq_false_iff.2 fun hr => ?_)
          cases hpulse.1 hr
          cases hb
        · exact .trigger hf k ops hq (hhead.trans hh) (by simp [hoffer, hb]) (by simpa using hpulse)
        · exact .pulse (hhead.trans hh) hoffer (hpulse.2 rfl)
        · exact .wait t (hhead.trans hh) hoffer (by simpa using hpulse)

/-! ### The outputs -/

section
variable {s : State}

/-- The panel port works in neither RECEIVE nor ACK, so that the other ports are quiet (R240). -/
theorem State.Inv.outputs_of_panelActive (h : s.Inv) (ha : s.panelActive = true) :
    s.outputs.rxReady = false ∧ s.outputs.txValid = false := by
  have hrx : s.phase ≠ .receive := fun hp => absurd ha (by simp [State.panelActive_of_receive hp])
  have hack : s.phase ≠ .ack := fun hp => absurd ha (by simp [State.panelActive_of_ack hp])
  simp [State.outputs, hrx, h.ackQ_of_phase hack]

theorem portOutputs_of_rst {e : Edge} (he : e.rst = true) : portOutputs e s = resetOutputs := by
  simp [portOutputs, he]

theorem portOutputs_pnlRstN_eq_false {e : Edge} :
    (portOutputs e s).pnlRstN = false ↔ e.rst = false ∧ s.resetDriven = true := by
  cases he : e.rst <;> simp [portOutputs, he, resetOutputs]

theorem portOutputs_pnlValid {e : Edge} (he : e.rst = false) : (portOutputs e s).pnlValid = s.panelOffer.isSome := by
  simp [portOutputs, he, State.outputs]

/-- A byte offered is the head of the panel operations still to be performed, and no other port is active. -/
theorem PanelPort.offered (hport : PanelPort s) (hv : s.outputs.pnlValid = true) : s.panelActive = true ∧
    s.pending.head? = s.outputs.pnlData.map fun b => if s.outputs.pnlDc then .data b else .cmd b := by
  cases hport with
  | data ha d hh ho => exact ⟨ha, by simp [hh, State.outputs, ho]⟩
  | command ha b hh ho => exact ⟨ha, by simp [hh, State.outputs, ho]⟩
  | empty _ ho | trigger _ _ _ _ _ ho | pulse _ ho | wait _ _ ho => simp [State.outputs, ho] at hv

/-- A data byte next in turn is offered. -/
theorem PanelPort.offers_data (hport : PanelPort s) {b : Byte} (hb : s.pending.head? = some (.data b)) :
    s.panelOffer = some (true, b) := by
  cases hport with
  | data _ d hh ho => rw [hh] at hb; cases hb; exact ho
  | empty hh | command _ _ hh | trigger _ _ _ _ hh | pulse hh | wait _ hh => simp [hh] at hb

/-- A command byte next in turn is offered, unless a trigger in the split form is to put it in the queue first. -/
theorem PanelPort.offers_command (hport : PanelPort s) {b : Byte} (hb : s.pending.head? = some (.cmd b))
    (hs : s.cfg.trigForm = .split → ∀ k ops, s.pq ≠ .trig k :: ops) : s.panelOffer = some (false, b) := by
  cases hport with
  | command _ c hh ho => rw [hh] at hb; cases hb; exact ho
  | trigger hf k ops hq => exact absurd hq (hs hf k ops)
  | empty hh | data _ _ hh | pulse hh | wait _ hh => simp [hh] at hb

/-- The reset pulse is driven exactly when it is next in turn (R44). -/
theorem PanelPort.resetDriven_iff (hport : PanelPort s) : s.resetDriven = true ↔ s.pending.head? = some .rst := by
  cases hport with
  | empty hh _ hr | data _ _ hh _ hr | command _ _ hh _ hr | trigger _ _ _ _ hh _ hr | pulse hh _ hr | wait _ hh _ hr =>
    simp [hh, hr]

/-- The panel port offers nothing while it drives a reset pulse. -/
theorem PanelPort.offer_of_resetDriven (hport : PanelPort s) (hr : s.resetDriven = true) : s.panelOffer = none := by
  cases hport with
  | empty _ ho | trigger _ _ _ _ _ ho | pulse _ ho | wait _ _ ho => exact ho
  | data _ _ _ _ hn | command _ _ _ _ hn => simp [hn] at hr

end

/-- Settles O50, by what the panel port does in a state that meets the invariant. -/
theorem portsAreExclusive : Obligations.PortsAreExclusive := by
  unfold Obligations.PortsAreExclusive
  intro s h
  have hport := h.panelPort
  refine ⟨by simp [State.outputs], by simp [State.outputs, h.ack], rfl, fun hv => ?_, fun b hb => ?_, fun b hb hs => ?_, rfl,
    fun e => ?_, fun e hn => ?_, ?_, ?_, rfl, ?_⟩
  · obtain ⟨ha, hhead⟩ := hport.offered hv
    obtain ⟨hrx, htx⟩ := h.outputs_of_panelActive ha
    exact ⟨hrx, htx, ha, hhead⟩
  · simp [State.outputs, hport.offers_data hb]
  · simp [State.outputs, hport.offers_command hb hs]
  · rw [portOutputs_pnlRstN_eq_false, hport.resetDriven_iff]
  · obtain ⟨he, hr⟩ := portOutputs_pnlRstN_eq_false.1 hn
    simp [portOutputs_pnlValid he, hport.offer_of_resetDriven hr]
  · change s.phase.code = _
    cases s.phase <;> rfl
  · change s.rxState.code = _
    cases s.rxState <;> rfl
  · change s.lastResult.code = _
    cases s.lastResult <;> rfl

/-- Settles O51: the reset state is written out, its memories list nothing, and an asserted reset sets the outputs. -/
theorem resetValues : Obligations.ResetValues := by
  unfold Obligations.ResetValues
  intro c s levels
  have hrxbuf : ∀ a, s.rxByte a = none := fun a => by simp [s, State.rxByte, Mem.read, Mem.find]
  have hprev : ∀ a, a < c.fb → s.prevByte a = some c.white := fun a ha => by
    simp [s, State.prevByte, Mem.read, Mem.find, ha]
  have hlevels : levels s.outputs := ⟨rfl, rfl, rfl, rfl, rfl, rfl, rfl, rfl⟩
  have hreset : levels resetOutputs := ⟨rfl, rfl, rfl, rfl, rfl, rfl, rfl, rfl⟩
  refine ⟨rfl, rfl, rfl, rfl, rfl, rfl, rfl, rfl, rfl, rfl, rfl, rfl, rfl, rfl, rfl, rfl, rfl, rfl, rfl, rfl, hrxbuf, hprev,
    rfl, hlevels, fun e any he => ?_⟩
  rw [portOutputs_of_rst he]
  exact hreset

end Sys2Proof.Machine

/-! What a step runs (spec/10_state.md R21, R28): the instruction that is due, in the state with the instruction taken from
where it waited. -/

namespace Sys2Proof.Machine

section
variable {s : State}

theorem step_of_due {i : Instr} {s1 : State} (h : due s = .instr i s1) : step s = exec i s1 := by
  simp [step, h]

theorem due_of_not_rst (hr : s.edge.rst = false) : due s = duePhase s.edge s.tick := by
  simp [due, hr]

/-- A host byte offered in RECEIVE is due (R91). -/
theorem due_byte (hr : s.edge.rst = false) (hp : s.phase = .receive) (hv : s.edge.rxValid = true) {b : Byte}
    {rest : List Byte} (hq : s.hostQ = b :: rest) : due s = .instr (s.eventInstr b) { s.tick with hostQ := rest } := by
  rw [due_of_not_rst hr]
  simp only [duePhase, State.tick_phase, hp, dueReceive, hv, State.tick_hostQ, hq]
  rfl

/-- An emitted frame is due, by its decoded kind (R213). -/
theorem due_frame (hr : s.edge.rst = false) (hp : s.phase = .dispatch) (hg : s.draining = false) {i : Instr}
    (hi : decodeFrame s = .ok i) : due s = .instr i s.tick := by
  have htick : decodeFrame s.tick = .ok i := hi
  rw [due_of_not_rst hr]
  simp [duePhase, hp, hg, dueFrame, htick]

/-- While the panel port works, what is due is read off its queues. -/
theorem due_drain (hr : s.edge.rst = false) (ha : s.panelActive = true) :
    ∃ done, due s = dueDrain s.edge s.tick done ∧
      (s.phase = .dispatch → done = .instr .ackOk (endDispatch s.tick)) := by
  rw [due_of_not_rst hr]
  cases hp : s.phase with
  | bringup => exact ⟨dueBringupEnd s.tick, by simp [duePhase, hp], nofun⟩
  | dispatch =>
    have hg : s.draining = true := by simpa [State.panelActive, hp] using ha
    exact ⟨_, by simp [duePhase, hp, hg], fun _ => rfl⟩
  | receive => simp [State.panelActive_of_receive hp] at ha
  | ack => simp [State.panelActive_of_ack hp] at ha

/-- With every data byte sent, the head of the panel queue is next (R185). -/
theorem due_op (hr : s.edge.rst = false) (ha : s.panelActive = true) (hd : s.dq = []) {op : PanelOp} {ops : List PanelOp}
    (hq : s.pq = op :: ops) : due s = dueOp s.edge op ops s.tick := by
  obtain ⟨done, e, -⟩ := due_drain hr ha
  simp [e, dueDrain, hd, hq]

/-- The head of the panel queue runs, if it is no wait, unless the port refuses its command byte (R43). -/
theorem dueOp_ready {e : Edge} {op : PanelOp} {ops : List PanelOp} (hw : ∀ b, op ≠ .wait b)
    (h : e.pnlReady = true ∨ op.commandByte s.cfg = none) :
    dueOp e op ops s = .instr (op.instr true) { s with pq := ops } := by
  have hsent : ((op.commandByte s.cfg).isSome && !e.pnlReady) = false := by
    rcases h with h | h <;> simp [h]
  cases op with
  | wait b => exact absurd rfl (hw b)
  | _ => simp only [dueOp, hsent, Bool.false_eq_true, if_false]

/-- A wait at the head of the panel queue runs when it ends, an idle sample before the bound (R240). -/
theorem dueOp_wait {e : Edge} {b : WaitBound} {ops : List PanelOp} (h : e.busyIdle = true ∨ e.busyTimeout = true) :
    dueOp e (.wait b) ops s = .instr (.wait b e.busyIdle) { s with pq := ops } := by
  cases hi : e.busyIdle with
  | true => simp [dueOp, hi]
  | false => simp [dueOp, hi, h.resolve_left (by simp [hi])]

/-- The acknowledgement is due when all operations of a dispatch have been performed (R212). -/
theorem due_done (hr : s.edge.rst = false) (hp : s.phase = .dispatch) (hg : s.draining = true) (hq : s.pq = [])
    (hd : s.dq = []) : due s = .instr .ackOk (endDispatch s.tick) := by
  obtain ⟨done, e, hdone⟩ := due_drain hr (by simp [State.panelActive, hp, hg])
  simp [e, dueDrain, hd, hq, hdone hp]

end

/-- Settles O56: each instruction that is due is the one that the step runs. -/
theorem stepRunsDecodedInstruction : Obligations.StepRunsDecodedInstruction := by
  unfold Obligations.StepRunsDecodedInstruction
  intro s hr
  refine ⟨fun b rest hp hv hq => step_of_due (due_byte hr hp hv hq), fun i hp hg hi => step_of_due (due_frame hr hp hg hi),
    fun op ops ha hd hq hw hready => step_of_due ?_, fun b ops ha hd hq hend => step_of_due ?_,
    fun hp hg hq hd => step_of_due (due_done hr hp hg hq hd)⟩
  · have hport : s.edge.pnlReady = true ∨ op.commandByte s.cfg = none := by
      rcases hready with h | rfl | ⟨hf, k, rfl⟩
      · exact .inl h
      · exact .inr rfl
      · exact .inr (by simp [PanelOp.commandByte, hf])
    rw [due_op hr ha hd hq]
    exact dueOp_ready hw hport
  · rw [due_op hr ha hd hq]
    exact dueOp_wait hend

end Sys2Proof.Machine

/-! The order of the panel operations (spec/20_memory.md R74, 43_refresh.md R185): what a step of the working panel port does
with a data byte and with the head of the queue, and that each keeps the operations one sequence. -/

namespace Sys2Proof.Machine

section
variable {s : State}

theorem step_of_quiet {s1 : State} (h : due s = .quiet s1) : step s = .next s1 := by
  simp [step, h]

/-! ### A data byte (R88) -/

theorem step_data_ready (hr : s.edge.rst = false) (ha : s.panelActive = true) {d : Byte} {ds : List Byte}
    (hd : s.dq = d :: ds) (hv : s.edge.pnlReady = true) :
    step s = .next { s.tick with dq := ds, panelOut := .data d :: s.panelOut } := by
  obtain ⟨done, hdue, -⟩ := due_drain hr ha
  have hquiet : due s = .quiet (sendData s.tick) := by simp [hdue, dueDrain, hd, hv]
  have hsent : sendData s.tick = { s.tick with panelOut := .data d :: s.panelOut, dq := ds } := sendData_cons hd
  rw [step_of_quiet hquiet, hsent]

theorem step_data_held (hr : s.edge.rst = false) (ha : s.panelActive = true) {d : Byte} {ds : List Byte}
    (hd : s.dq = d :: ds) (hv : s.edge.pnlReady = false) : step s = .next s.tick := by
  obtain ⟨done, hdue, -⟩ := due_drain hr ha
  exact step_of_quiet (by simp [hdue, dueDrain, hd, hv])

/-! ### The head of the panel queue (R185) -/

/-- A command byte waits for the port (R43). -/
theorem dueOp_held {e : Edge} {op : PanelOp} {ops : List PanelOp} (hv : e.pnlReady = false)
    (hb : op.commandByte s.cfg ≠ none) : dueOp e op ops s = .quiet s := by
  have hheld : ((op.commandByte s.cfg).isSome && !e.pnlReady) = true := by
    simpa [hv] using Option.isSome_iff_ne_none.2 hb
  cases op with
  | wait b => exact absurd rfl hb
  | _ => simp only [dueOp, hheld, if_true]

/-- The head of the panel queue waits, or its instruction runs. -/
theorem dueOp_cases (e : Edge) (op : PanelOp) (ops : List PanelOp) (s : State) :
    dueOp e op ops s = .quiet s ∨ ∃ idle, dueOp e op ops s = .instr (op.instr idle) { s with pq := ops } := by
  by_cases hw : ∃ b, op = .wait b
  · obtain ⟨b, rfl⟩ := hw
    by_cases hend : e.busyIdle = true ∨ e.busyTimeout = true
    · exact .inr ⟨_, dueOp_wait hend⟩
    · obtain ⟨hi, ht⟩ := not_or.1 hend
      exact .inl (by simp [dueOp, hi, ht])
  · by_cases hready : e.pnlReady = true ∨ op.commandByte s.cfg = none
    · exact .inr ⟨_, dueOp_ready (not_exists.1 hw) hready⟩
    · obtain ⟨hv, hb⟩ := not_or.1 hready
      exact .inl (dueOp_held (Bool.eq_false_iff.2 hv) hb)

theorem step_op_held (hr : s.edge.rst = false) (ha : s.panelActive = true) (hd : s.dq = []) {op : PanelOp}
    {ops : List PanelOp} (hq : s.pq = op :: ops) (hv : s.edge.pnlReady = false)
    (hb : op.commandByte s.cfg ≠ none) : step s = .next s.tick :=
  step_of_quiet ((due_op hr ha hd hq).trans (dueOp_held hv hb))

/-! ### One sequence of operations -/

/-- `t` is the next state of a panel port at work: it differs from `s` in nothing but the inputs, the queue, the port record
and `wait_fail`, and the operations performed and still to come are the same sequence in both. -/
def KeepsPanelOrder (s t : State) : Prop :=
  t.panelOut.reverse ++ t.pending = s.panelOut.reverse ++ s.pending ∧
    t = { s.tick with pq := t.pq, dq := t.dq, panelOut := t.panelOut, waitFail := t.waitFail }

theorem tick_keepsPanelOrder (s : State) : KeepsPanelOrder s s.tick := ⟨rfl, rfl⟩

theorem data_keepsPanelOrder {d : Byte} {ds : List Byte} (hd : s.dq = d :: ds) :
    KeepsPanelOrder s { s.tick with dq := ds, panelOut := .data d :: s.panelOut } :=
  ⟨by simp [State.pending, hd], rfl⟩

theorem exec_instr_keepsPanelOrder (hd : s.dq = []) {op : PanelOp} {ops : List PanelOp} (hq : s.pq = op :: ops)
    (idle : Bool) : ∃ t, exec (op.instr idle) { s.tick with pq := ops } = .next t ∧ KeepsPanelOrder s t := by
  obtain ⟨t, hexec, hframe⟩ := exec_instr op idle { s.tick with pq := ops }
  have hpending : { s.tick with pq := op :: ops }.pending = s.pending := by simp [State.pending, hq]
  have horder := exec_instr_order op ops idle s.tick hd hexec
  rw [hpending] at horder
  exact ⟨t, hexec, horder, hframe⟩

/-- While the panel port has something to perform, every step keeps the sequence: the next data byte is sent or waits, else
the instruction of the head of the queue runs or waits. -/
theorem step_keepsPanelOrder (hr : s.edge.rst = false) (ha : s.panelActive = true) (hne : s.dq ≠ [] ∨ s.pq ≠ []) :
    ∃ t, step s = .next t ∧ KeepsPanelOrder s t := by
  cases hd : s.dq with
  | cons d ds =>
    cases hv : s.edge.pnlReady with
    | true => exact ⟨_, step_data_ready hr ha hd hv, data_keepsPanelOrder hd⟩
    | false => exact ⟨_, step_data_held hr ha hd hv, tick_keepsPanelOrder s⟩
  | nil =>
    obtain ⟨op, ops, hq⟩ := List.exists_cons_of_ne_nil (hne.resolve_left (not_not_intro hd))
    have hdue := due_op hr ha hd hq
    rcases dueOp_cases s.edge op ops s.tick with hop | ⟨idle, hop⟩
    · exact ⟨_, step_of_quiet (hdue.trans hop), tick_keepsPanelOrder s⟩
    · obtain ⟨t, hexec, hkeeps⟩ := exec_instr_keepsPanelOrder hd hq idle
      exact ⟨t, (step_of_due (hdue.trans hop)).trans hexec, hkeeps⟩

end

/-- Settles O48, by what each step of the working panel port does with a data byte and with the head of the queue. -/
theorem panelOperationsKeepOrder : Obligations.PanelOperationsKeepOrder := by
  unfold Obligations.PanelOperationsKeepOrder
  intro s ha hr
  refine ⟨step_keepsPanelOrder hr ha, fun d ds hd => ⟨step_data_ready hr ha hd, step_data_held hr ha hd⟩,
    fun op ops hd hq hv hw hrst htrig => step_op_held hr ha hd hq hv fun hb => ?_⟩
  rcases PanelOp.commandByte_eq_none hb with ⟨hf, k, rfl⟩ | rfl | ⟨b, rfl⟩
  · exact htrig k rfl hf
  · exact hrst rfl
  · exact hw b rfl

end Sys2Proof.Machine

/-! The decoder on the bytes that the encoder writes, and the bytes an answer of the decoder can have come from, one format of
spec/30_encoding.md after the other. -/

namespace Sys2Proof

section
variable {c : Config}

/-! ### Little-endian fields (R82, R85) -/

theorem toNat_le16 (lo hi : Byte) : (le16 lo hi).toNat = lo.toNat + 256 * hi.toNat := by
  have hlo := lo.isLt
  rw [le16, BitVec.toNat_append, Nat.shiftLeft_eq, Nat.mul_comm, ← Nat.two_pow_add_eq_or_of_lt hlo]
  omega

theorem loByte_eq_ofNat (v : Half) : loByte v = BitVec.ofNat 8 v.toNat := by
  simp [loByte, BitVec.extractLsb']

theorem hiByte_eq_ofNat (v : Half) : hiByte v = BitVec.ofNat 8 (v.toNat / 256) := by
  simp [hiByte, BitVec.extractLsb', Nat.shiftRight_eq_div_pow]

theorem bytes16_eq_ofNat (v : Half) : bytes16 v = [BitVec.ofNat 8 v.toNat, BitVec.ofNat 8 (v.toNat / 256)] := by
  rw [bytes16, loByte_eq_ofNat, hiByte_eq_ofNat]

theorem le32_bytes32 (v : Word) : le32 (byteOf v 0) (byteOf v 1) (byteOf v 2) (byteOf v 3) = v := by
  unfold le32 byteOf
  ext i hi
  simp only [BitVec.getElem_append, BitVec.getElem_extractLsb']
  split_ifs <;> rw [← BitVec.getLsbD_eq_getElem] <;> congr 1 <;> omega

theorem getLsbD_le32 (b0 b1 b2 b3 : Byte) (i : Nat) :
    (le32 b0 b1 b2 b3).getLsbD i =
      if i < 8 then b0.getLsbD i
      else if i - 8 < 8 then b1.getLsbD (i - 8)
      else if i - 8 - 8 < 8 then b2.getLsbD (i - 8 - 8)
      else b3.getLsbD (i - 8 - 8 - 8) := by
  change BitVec.getLsbD (w := 8 + 8 + 8 + 8) (b3 ++ b2 ++ b1 ++ b0) i = _
  simp only [BitVec.getLsbD_append]

theorem bytes32_le32 (b0 b1 b2 b3 : Byte) : bytes32 (le32 b0 b1 b2 b3) = [b0, b1, b2, b3] := by
  simp only [bytes32, byteOf, List.cons.injEq, and_true]
  refine ⟨?_, ?_, ?_, ?_⟩ <;> ext i hi <;> rw [BitVec.getElem_extractLsb', getLsbD_le32]
  · simp [hi]
  · simp [hi]
  · rw [if_neg (by omega), if_neg (by omega), if_pos (by omega), show 8 * 2 + i - 8 - 8 = i by omega]
    exact BitVec.getLsbD_eq_getElem hi
  · rw [if_neg (by omega), if_neg (by omega), if_neg (by omega), show 8 * 3 + i - 8 - 8 - 8 = i by omega]
    exact BitVec.getLsbD_eq_getElem hi

/-! ### Wire frames (R81) -/

theorem decodeWire_wireBytes {len : Word} {p : List Byte} (crc : Word) (hp : p.length = len.toNat) :
    decodeWire (wireBytes len p crc) = .ok (.mwf1Frame len p crc) := by
  simp [decodeWire, wireBytes, magic, bytes32, le32_bytes32, ← hp]

/-- An accepted wire frame is MAGIC, LENGTH, as many payload bytes as LENGTH says, and the trailer. -/
theorem decodeWire_eq_ok {bytes : List Byte} {i : Instr} (h : decodeWire bytes = .ok i) :
    ∃ (len : Word) (p : List Byte) (crc : Word),
      i = .mwf1Frame len p crc ∧ p.length = len.toNat ∧ bytes = wireBytes len p crc := by
  unfold decodeWire at h
  split_ifs at h with hmagic
  split at h
  case h_2 => cases h
  case h_1 l0 l1 l2 l3 body hbody =>
    dsimp only at h
    split at h
    case h_2 => cases h
    case h_1 c0 c1 c2 c3 htrailer =>
      cases h
      have hlen := congrArg List.length htrailer
      refine ⟨_, _, _, rfl, ?_, ?_⟩
      · simp at hlen ⊢
        omega
      · rw [wireBytes, bytes32_le32, bytes32_le32, ← hmagic, ← htrailer, List.append_assoc, List.append_assoc,
          List.take_append_drop]
        exact (List.take_append_drop 4 bytes).symm.trans (by rw [hbody]; rfl)

/-! ### Receiver events (R91) -/

theorem decodeEvent_eventWord (n st : BitVec 2) (b : Byte) :
    decodeEvent n (eventWord st b) =
      if st = 0#2 then .rxSeek b
      else if st = 1#2 then if n = 3#2 then .rxLenLast b else .rxLen b
      else if st = 2#2 then .rxPay b
      else if n = 3#2 then .rxCrcLast b else .rxCrc b := by
  have hb : (eventWord st b).extractLsb' 0 8 = b := BitVec.extractLsb'_append_eq_right
  have hst : (eventWord st b).extractLsb' 8 2 = st := BitVec.extractLsb'_append_eq_left
  rw [decodeEvent, hb, hst]

/-! ### Frame headers (R84, R86, R200 to R204) -/

@[simp] theorem flagForce_mask (f : Byte) : flagForce (f &&& 0x03#8) = flagForce f := by
  simp [flagForce]

@[simp] theorem flagRect_mask (f : Byte) : flagRect (f &&& 0x03#8) = flagRect f := by
  simp [flagRect]

@[simp] theorem flagRect_mask_rect (f : Byte) : flagRect (f &&& 0x02#8) = flagRect f := by
  simp [flagRect]

/-- A flags byte that matches a row of the table has the two flags of the row's pattern. -/
theorem flags_of_flagsMatch {f pattern : Byte} (h : flagsMatch f pattern = true) :
    flagForce f = flagForce pattern ∧ flagRect f = flagRect pattern := by
  rw [flagsMatch, decide_eq_true_eq] at h
  exact ⟨by rw [← h, flagForce_mask], by rw [← h, flagRect_mask]⟩

/-- The length of a rectangle payload is a 32-bit length (R82, R83). -/
theorem toNat_ofNat_rectLen (w h : Half) : (BitVec.ofNat 32 (rectLen w h)).toNat = rectLen w h := by
  have hw : w.toNat / 8 ≤ 8191 := by have := w.isLt; omega
  have hh : h.toNat ≤ 65535 := by have := h.isLt; omega
  have hwh := Nat.mul_le_mul hw hh
  rw [BitVec.toNat_ofNat, Nat.mod_eq_of_lt]
  unfold rectLen
  omega

theorem decodeRect_of_flags {len : Word} {f pattern : Byte} {w h : Half} (hlen : len.toNat = rectLen w h)
    (hf : flagsMatch f pattern = true) (x y : Half) :
    decodeRect len f x y w h =
      if flagForce pattern then .frmRectForce f x y w h else .frmRectPartial f x y w h := by
  rw [decodeRect, if_pos hlen, (flags_of_flagsMatch hf).1]

theorem decodeFull_of_flags {len : Word} {f pattern : Byte} (hlen : len.toNat = c.fb + 1)
    (hf : flagsMatch f pattern = true) :
    decodeFull c len f = if flagForce pattern then .frmFullForce f else .frmFullPartial f := by
  rw [decodeFull, if_pos hlen, (flags_of_flagsMatch hf).1]

theorem decodePayload_legacy {len : Word} (header : List Byte) (hl : len.toNat = c.fb) :
    decodePayload c len header = .ok .frmLegacy := if_pos hl

theorem decodePayload_full {len : Word} {f : Byte} (rest : List Byte) (hl : len.toNat ≠ c.fb) (hf : flagRect f = false) :
    decodePayload c len (f :: rest) = .ok (decodeFull c len f) := by
  simp [decodePayload, hl, hf]

theorem decodePayload_rect {len : Word} {f : Byte} (x y w h : Half) (tail : List Byte) (hl : len.toNat ≠ c.fb)
    (hf : flagRect f = true) :
    decodePayload c len (rectHeader f x y w h ++ tail) = .ok (decodeRect len f x y w h) := by
  simp [decodePayload, rectHeader, bytes16, hl, hf]

/-- Everything the decoder can answer for a header with a flags byte. -/
theorem decodePayload_cons_eq_ok {len : Word} {f : Byte} {rest : List Byte} {i : Instr}
    (hi : decodePayload c len (f :: rest) = .ok i) :
    (len.toNat = c.fb ∧ i = .frmLegacy) ∨
    (len.toNat ≠ c.fb ∧ flagRect f = false ∧ i = decodeFull c len f) ∨
    (len.toNat ≠ c.fb ∧ flagRect f = true ∧ ∃ x y w h tail,
      (∀ g, g :: rest = rectHeader g x y w h ++ tail) ∧ i = decodeRect len f x y w h) := by
  unfold decodePayload at hi
  split_ifs at hi with hl
  · cases hi; exact .inl ⟨hl, rfl⟩
  · dsimp only at hi
    split_ifs at hi with hf
    · split at hi <;> cases hi
      exact .inr (.inr ⟨hl, hf, _, _, _, _, _, fun g => by simp [rectHeader, bytes16]; rfl, rfl⟩)
    · cases hi; exact .inr (.inl ⟨hl, by simpa using hf, rfl⟩)

/-! ### Acknowledgements and triggers (R87, R90) -/

theorem Config.wf_ackBytes (hc : c.wf = true) :
    ackBadlenBytes c ≠ ackOkBytes ∧ ackBadcrcBytes c ≠ ackOkBytes ∧ ackBadcrcBytes c ≠ ackBadlenBytes c := by
  simp only [Config.wf, Config.errWf, Bool.and_eq_true, decide_eq_true_eq] at hc
  obtain ⟨⟨⟨⟨⟨-, ⟨⟨-, hcodes⟩, hlen⟩, hcrc⟩, -⟩, -⟩, -⟩, -⟩ := hc
  refine ⟨fun h => hlen ?_, fun h => hcrc ?_, fun h => hcodes ?_⟩
  · rw [ackBadlenBytes] at h; rw [h]; rfl
  · rw [ackBadcrcBytes] at h; rw [h]; rfl
  · simpa [ackBadlenBytes, ackBadcrcBytes, eq_comm] using h

theorem Config.wf_trigPortOps (hc : c.wf = true) : trigPortOps c .part ≠ trigPortOps c .full := by
  simp only [Config.wf, Bool.and_eq_true, decide_eq_true_eq] at hc
  obtain ⟨⟨⟨-, hupd⟩, hform⟩, -⟩ := hc
  intro h
  cases hf : c.trigForm with
  | split => exact hupd (by simpa [trigPortOps, hf] using h.symm)
  | single f p =>
    rw [hf] at hform
    exact of_decide_eq_true hform (by simpa [trigPortOps, hf] using h.symm)

/-! ### Panel commands (R88, R89) -/

theorem Opcode.mem_all (o : Opcode) : o ∈ Opcode.all := by
  cases o with
  | entry k | colwin k | rowwin k | colcur k | rowcur k => cases k <;> decide
  | plane k p => cases k <;> cases p <;> decide
  | _ => decide

/-- A byte found for a command is the command's byte. -/
theorem byte_of_findOpcode {t : Opcodes} {b : Byte} {o : Opcode} (h : findOpcode t b = some o) : t.byte o = b := by
  simpa using List.find?_some h

theorem findOpcode_byte {t : Opcodes} (ht : t.distinct = true) (o : Opcode) : findOpcode t (t.byte o) = some o := by
  have hnodup : (Opcode.all.map t.byte).Nodup := by simpa [Opcodes.distinct] using ht
  cases hfound : findOpcode t (t.byte o) with
  | none => simpa using List.find?_eq_none.1 hfound o o.mem_all
  | some o' => rw [List.inj_on_of_nodup_map hnodup o'.mem_all o.mem_all (byte_of_findOpcode hfound)]

theorem decode_panelCode (ht : c.opcodes.distinct = true) (o : Opcode) (data : List Byte) :
    decode c (panelCode c o data) = panelInstr c.encs o data := by
  simp [decode, panelCode, decodePanel, findOpcode_byte ht]

theorem operandInstr_eq_ok {α : Type} {f : α → Instr} {a : Option α} {i : Instr} (h : operandInstr f a = .ok i) :
    ∃ x, a = some x ∧ i = f x := by
  cases a with
  | none => cases h
  | some x => cases h; exact ⟨x, rfl, rfl⟩

/-! ### The round trip, one format at a time -/

theorem decode_encode_event {i : Instr} (hf : i.format = .event) : decode c (encode c i) = .ok i := by
  cases i with
  | rxSeek b | rxLen b | rxLenLast b | rxPay b | rxCrc b | rxCrcLast b =>
    simp [decode, encode, decodeEvent_eventWord]
  | _ => cases hf

theorem decode_encode_ack (hc : c.wf = true) {i : Instr} (hf : i.format = .ack) : decode c (encode c i) = .ok i := by
  obtain ⟨hlen, hcrc, hcodes⟩ := Config.wf_ackBytes hc
  cases i with
  | ackOk | ackBadlen | ackBadcrc => simp [decode, encode, decodeAck, hlen, hcrc, hcodes]
  | _ => cases hf

theorem decode_encode_trigger (hc : c.wf = true) {i : Instr} (hf : i.format = .trigger) :
    decode c (encode c i) = .ok i := by
  cases i with
  | trigFull | trigPart => simp [decode, encode, decodeTrigger, Config.wf_trigPortOps hc]
  | _ => cases hf

theorem decode_encode_payload {i : Instr} (hf : i.format = .payload) (hi : i.wf c = true) :
    decode c (encode c i) = .ok i := by
  cases i with
  | frmLegacy =>
    have hfb : c.fb < 2 ^ 32 := of_decide_eq_true hi
    exact decodePayload_legacy [] (by rw [BitVec.toNat_ofNat, Nat.mod_eq_of_lt hfb])
  | frmFullPartial f | frmFullForce f =>
    obtain ⟨hflags, hfb⟩ := Bool.and_eq_true_iff.1 hi
    have hlen : (BitVec.ofNat 32 (c.fb + 1)).toNat = c.fb + 1 := by
      rw [BitVec.toNat_ofNat, Nat.mod_eq_of_lt (of_decide_eq_true hfb)]
    have hne : (BitVec.ofNat 32 (c.fb + 1)).toNat ≠ c.fb := by omega
    have hdec := decodePayload_full [] hne (flags_of_flagsMatch hflags).2
    exact hdec.trans (congrArg _ (decodeFull_of_flags hlen hflags))
  | frmRectPartial f x y w h | frmRectForce f x y w h =>
    obtain ⟨hflags, hfb⟩ := Bool.and_eq_true_iff.1 hi
    have hlen := toNat_ofNat_rectLen w h
    have hne : (BitVec.ofNat 32 (rectLen w h)).toNat ≠ c.fb := by rw [hlen]; exact of_decide_eq_true hfb
    have hdec := decodePayload_rect x y w h [] hne (flags_of_flagsMatch hflags).2
    exact hdec.trans (congrArg _ (decodeRect_of_flags hlen hflags x y))
  | badshape len hdr =>
    obtain ⟨hlegacy, hhdr⟩ := Bool.and_eq_true_iff.1 hi
    have hne : len.toNat ≠ c.fb := of_decide_eq_true hlegacy
    cases hdr with
    | full f =>
      obtain ⟨hflags, hlen⟩ := Bool.and_eq_true_iff.1 hhdr
      have hrect : flagRect f = false := by rw [← flagRect_mask_rect, of_decide_eq_true hflags]; rfl
      exact (decodePayload_full [] hne hrect).trans (congrArg _ (if_neg (of_decide_eq_true hlen)))
    | rect f x y w h =>
      obtain ⟨hflags, hlen⟩ := Bool.and_eq_true_iff.1 hhdr
      have hrect : flagRect f = true := by rw [← flagRect_mask_rect, of_decide_eq_true hflags]; rfl
      exact (decodePayload_rect x y w h [] hne hrect).trans (congrArg _ (if_neg (of_decide_eq_true hlen)))
  | _ => cases hf

theorem decode_encode_panel (hr : c.readable = true) {i : Instr} (hf : i.format = .panel) (hi : i.wf c = true) :
    decode c (encode c i) = .ok i := by
  simp only [Config.readable, Bool.and_eq_true] at hr
  obtain ⟨⟨⟨⟨hops, hcolwin⟩, hrowwin⟩, hcolcur⟩, hrowcur⟩ := hr
  cases i with
  | opColwinM m n | opColwinS m n =>
    simp [encode, decode_panelCode hops, panelInstr, undoColwin_encColwin hcolwin hi, operandInstr]
  | opRowwinM u v | opRowwinS u v =>
    simp [encode, decode_panelCode hops, panelInstr, undoRowwin_encRowwin hrowwin hi, operandInstr]
  | opColcurM m | opColcurS m =>
    simp [encode, decode_panelCode hops, panelInstr, undoColcur_encColcur hcolcur hi, operandInstr]
  | opRowcurM u | opRowcurS u =>
    simp [encode, decode_panelCode hops, panelInstr, undoRowcur_encRowcur hrowcur hi, operandInstr]
  | opSwreset | opEntryM | opEntryS | opNewM | opNewS | opOldM | opOldS | opBorder | opTempsrc | opUpdate | opActivate =>
    simp [encode, decode_panelCode hops, panelInstr]
  | _ => cases hf

/-! ### Panel bytes of an answer -/

/-- A command's answer is the instruction whose opcode and data bytes these are. -/
theorem encode_of_panelInstr {o : Opcode} {data : List Byte} {i : Instr} (h : panelInstr c.encs o data = .ok i) :
    encode c i = panelCode c o data := by
  cases o with
  | swreset | activate => cases data <;> cases h; rfl
  | entry k => cases k <;> rcases data with _ | ⟨d, _ | ⟨_, _⟩⟩ <;> cases h <;> rfl
  | border | tempsrc | update => rcases data with _ | ⟨d, _ | ⟨_, _⟩⟩ <;> cases h; rfl
  | plane k p => cases k <;> cases p <;> cases h <;> rfl
  | colwin k =>
    cases k <;> obtain ⟨a, ha, rfl⟩ := operandInstr_eq_ok h <;> simp only [encode, encColwin_undoColwin ha]
  | rowwin k =>
    cases k <;> obtain ⟨a, ha, rfl⟩ := operandInstr_eq_ok h <;> simp only [encode, encRowwin_undoRowwin ha]
  | colcur k =>
    cases k <;> obtain ⟨a, ha, rfl⟩ := operandInstr_eq_ok h <;> simp only [encode, encColcur_undoColcur ha]
  | rowcur k =>
    cases k <;> obtain ⟨a, ha, rfl⟩ := operandInstr_eq_ok h <;> simp only [encode, encRowcur_undoRowcur ha]

end

/-- Settles O1, by the format of the instruction. -/
theorem decodeEncodeRoundTrip : Obligations.DecodeEncodeRoundTrip := by
  unfold Obligations.DecodeEncodeRoundTrip
  intro c i hc hr hi
  cases hf : i.format with
  | event => exact decode_encode_event hf
  | payload => exact decode_encode_payload hf hi
  | ack => exact decode_encode_ack hc hf
  | panel => exact decode_encode_panel hr hf hi
  | trigger => exact decode_encode_trigger hc hf
  | wire => cases i with
    | mwf1Frame len p crc => exact decodeWire_wireBytes crc (of_decide_eq_true hi)
    | _ => cases hf
  | reset => cases i with
    | rst => rfl
    | _ => cases hf
  | waited => cases i with
    | wait t idle => rfl
    | _ => cases hf

/-- Settles O2: the two directions are `decodeWire_eq_ok` and `decodeWire_wireBytes`. -/
theorem wireDecodeIsExact : Obligations.WireDecodeIsExact := by
  unfold Obligations.WireDecodeIsExact
  intro c bytes i
  refine ⟨decodeWire_eq_ok, ?_⟩
  rintro ⟨len, p, crc, rfl, hp, rfl⟩
  exact decodeWire_wireBytes crc hp

/-- Settles O3: the command's byte is the first byte, and its operand is sent as the rest. -/
theorem panelDecodeIsExact : Obligations.PanelDecodeIsExact := by
  unfold Obligations.PanelDecodeIsExact
  intro c bytes i h
  cases bytes with
  | nil => cases h
  | cons b data =>
    simp only [decode, decodePanel] at h
    cases ho : findOpcode c.opcodes b with
    | none => simp [ho] at h
    | some o =>
      rw [ho] at h
      rw [encode_of_panelInstr h, panelCode, byte_of_findOpcode ho]

end Sys2Proof

/-! The frame in dispatch (spec/44_orchestrator.md R200 to R204): the header its decode looks at, and the fields there. -/

namespace Sys2Proof.Machine

/-! ### The header of a captured payload (R83, R85) -/

/-- The little-endian field at an offset of a payload. -/
def halfAt (p : List Byte) (i : Nat) : Half := le16 (p.getD i 0#8) (p.getD (i + 1) 0#8)

theorem toNat_halfAt {p : List Byte} {i : Nat} {a b : Byte} (ha : p[i]? = some a) (hb : p[i + 1]? = some b) :
    (halfAt p i).toNat = a.toNat + 256 * b.toNat := by
  simp [halfAt, toNat_le16, ha, hb]

section
variable {s : State} {p : List Byte}

theorem payloadByte_of_holdsPayload (hp : s.holdsPayload p) {i : Nat} (hi : i < p.length) :
    payloadByte s i = .ok (p.getD i 0#8) := by
  obtain ⟨hlen, hbytes⟩ := hp
  exact payloadByte_eq_ok_iff.2 ⟨by omega, by simp [hbytes i hi, hi]⟩

theorem payloadHeader_legacy (hl : s.frmLen.toNat = s.cfg.fb) : payloadHeader s = .ok [] := if_pos hl

theorem payloadHeader_full {f : Byte} (hl : s.frmLen.toNat ≠ s.cfg.fb) (h0 : payloadByte s 0 = .ok f)
    (hf : flagRect f = false) : payloadHeader s = .ok [f] := by
  simp [payloadHeader, hl, h0, hf]

theorem payloadHeader_rect {f : Byte} (hl : s.frmLen.toNat ≠ s.cfg.fb) (hp : s.holdsPayload p) (h9 : 9 ≤ p.length)
    (h0 : p[0]? = some f) (hf : flagRect f = true) :
    payloadHeader s = .ok (rectHeader f (halfAt p 1) (halfAt p 3) (halfAt p 5) (halfAt p 7)) := by
  have hget : p.getD 0 0#8 = f := by simp [h0]
  have hbyte : payloadByte s 0 = .ok f := hget ▸ payloadByte_of_holdsPayload hp (by omega)
  have hheader : collect (payloadByte s) (List.range 9) = .ok ((List.range 9).map fun i => p.getD i 0#8) :=
    collect_of_ok fun i hi => payloadByte_of_holdsPayload hp (by have := List.mem_range.1 hi; omega)
  have hfields : ((List.range 9).map fun i => p.getD i 0#8) =
      rectHeader f (halfAt p 1) (halfAt p 3) (halfAt p 5) (halfAt p 7) := by
    simp only [rectHeader, bytes16, halfAt, loByte_le16, hiByte_le16, ← hget]
    rfl
  simp only [payloadHeader, if_neg hl, hbyte, hf, if_true, hheader, hfields]

theorem decodeFrame_of_header {header : List Byte} {i : Instr} (hh : payloadHeader s = .ok header)
    (hi : decodePayload s.cfg s.frmLen header = .ok i) : decodeFrame s = .ok i := by
  simp [decodeFrame, hh, decode, hi]

end

/-- Settles O5: the header that each kind of frame has, and the decoder's answer for it. -/
theorem frameKindDecode : Obligations.FrameKindDecode := by
  unfold Obligations.FrameKindDecode
  intro s p hp h9 _
  have hlen : s.frmLen.toNat = p.length := hp.1
  refine ⟨fun hl => ?_, fun hl f h0 => ⟨fun hf => ?_, fun hf => ?_⟩⟩
  · have hl' := hlen.trans hl
    exact decodeFrame_of_header (payloadHeader_legacy hl') (decodePayload_legacy [] hl')
  · have hl' : s.frmLen.toNat ≠ s.cfg.fb := hlen ▸ hl
    have hbyte : payloadByte s 0 = .ok f := by
      simpa [h0] using payloadByte_of_holdsPayload hp (show 0 < p.length by omega)
    rw [← hlen]
    exact decodeFrame_of_header (payloadHeader_full hl' hbyte hf) (decodePayload_full [] hl' hf)
  · have hl' : s.frmLen.toNat ≠ s.cfg.fb := hlen ▸ hl
    refine ⟨halfAt p 1, halfAt p 3, halfAt p 5, halfAt p 7, fun _ _ => toNat_halfAt, fun _ _ => toNat_halfAt,
      fun _ _ => toNat_halfAt, fun _ _ => toNat_halfAt, ?_⟩
    rw [← hlen]
    exact decodeFrame_of_header (payloadHeader_rect hl' hp h9 h0 hf) (decodePayload_rect _ _ _ _ [] hl' hf)

end Sys2Proof.Machine

/-! The reserved bits of the flags byte (spec/30_encoding.md R93): the decoder and the actions look at the two flags alone. -/

namespace Sys2Proof.Machine

section
variable {c : Config} {g : Byte → Byte}

/-! ### The decode -/

theorem withFlags_decodeRect {f : Byte} (hg : flagForce (g f) = flagForce f) (len : Word) (x y w h : Half) :
    withFlags g (decodeRect len f x y w h) = decodeRect len (g f) x y w h := by
  unfold decodeRect
  rw [hg]
  split_ifs <;> rfl

theorem withFlags_decodeFull {f : Byte} (hg : flagForce (g f) = flagForce f) (len : Word) :
    withFlags g (decodeFull c len f) = decodeFull c len (g f) := by
  unfold decodeFull
  rw [hg]
  split_ifs <;> rfl

/-- A flags byte with the same two flags gives the same kind of frame. -/
theorem decodePayload_withFlags {f : Byte} {len : Word} {rest : List Byte} {i : Instr}
    (hforce : flagForce (g f) = flagForce f) (hrect : flagRect (g f) = flagRect f)
    (hi : decodePayload c len (f :: rest) = .ok i) :
    decodePayload c len (g f :: rest) = .ok (withFlags g i) := by
  rcases decodePayload_cons_eq_ok hi with ⟨hl, rfl⟩ | ⟨hl, hf, rfl⟩ | ⟨hl, hf, x, y, w, h, tail, hrest, rfl⟩
  · exact decodePayload_legacy _ hl
  · rw [withFlags_decodeFull hforce]
    exact decodePayload_full rest hl (hrect.trans hf)
  · rw [withFlags_decodeRect hforce, hrest]
    exact decodePayload_rect x y w h tail hl (hrect.trans hf)

/-! ### The execution -/

/-- An action that does not look at the flags byte. -/
def Action.IgnoresFlags (act : Action) : Prop := ∀ (s : State) (f : Byte), act { s with fFlags := f } = act s

theorem runAction_fFlags {act : Action} (hact : act.IgnoresFlags) {s t : State} (h : runAction act s = .next t) (f : Byte) :
    runAction act { s with fFlags := f } = .next { t with fFlags := f } := by
  rcases runAction_next h with ⟨hr, rfl⟩ | ⟨hr, ops, m, ha, rfl⟩
  · exact runAction_notReady hr
  · exact runAction_of_ok hr ((hact s f).trans ha)

/-- The frames of one instruction with two flags bytes are executed alike but for the flags byte that the decode stores. -/
theorem exec_withFlags (g : Byte → Byte) {i : Instr} {s t : State} (hf : i.format = .payload) (h : exec i s = .next t) :
    ∃ f : Byte, exec (withFlags g i) s = .next { t with fFlags := f } := by
  cases i with
  | frmLegacy => exact ⟨t.fFlags, h⟩
  | frmFullPartial f => exact ⟨g f, runAction_fFlags (act := actPartialFrame 1) (fun _ _ => rfl) h (g f)⟩
  | frmFullForce f => exact ⟨g f, runAction_fFlags (act := actForceFrame) (fun _ _ => rfl) h (g f)⟩
  | frmRectPartial f x y w k => exact ⟨g f, runAction_fFlags (act := actPartialRect x y w k) (fun _ _ => rfl) h (g f)⟩
  | frmRectForce f x y w k => exact ⟨g f, runAction_fFlags (act := actForceRect x y w k) (fun _ _ => rfl) h (g f)⟩
  | badshape len hdr =>
    cases hdr with
    | full f | rect f => cases h; exact ⟨g f, rfl⟩
  | _ => cases hf

end

/-- Settles O6: masking keeps the two flags that the decoder looks at, and no action looks at the flags byte. -/
theorem reservedFlagBitsIgnored : Obligations.ReservedFlagBitsIgnored := by
  unfold Obligations.ReservedFlagBitsIgnored
  exact ⟨fun _ _ f _ _ hi =>
      decodePayload_withFlags (g := fun _ => f &&& 0x03#8) (flagForce_mask f) (flagRect_mask f) hi,
    fun _ g _ _ hf h => exec_withFlags g hf h⟩

end Sys2Proof.Machine

/-! Words of the opcode table, and what the acknowledgements and the panel commands send (spec/30_encoding.md R87 to R90). -/

namespace Sys2Proof.Machine

/-- Settles O4: each word by the decoder on the code that the table's word stands for. -/
theorem tableWordsDecode : Obligations.TableWordsDecode := by
  unfold Obligations.TableWordsDecode
  exact ⟨rfl, rfl, rfl, rfl, rfl, rfl, rfl, rfl, rfl, rfl, rfl, rfl, rfl, rfl, rfl, rfl⟩

/-- Settles O22: each arm is one `sendAck`, after which the responses to BadLength and BadChecksum resync (R232, R233). -/
theorem acknowledgementsSent : Obligations.AcknowledgementsSent := by
  unfold Obligations.AcknowledgementsSent
  exact fun s => ⟨rfl, ⟨_, rfl, rfl⟩, ⟨_, rfl, rfl⟩⟩

/-! ### Command transfers (R88, R185) -/

/-- Settles O42: each arm is one `sendCommand`, with no data byte or one. -/
theorem singleCommandsSent : Obligations.SingleCommandsSent := by
  unfold Obligations.SingleCommandsSent
  exact fun s d => ⟨rfl, rfl, rfl, rfl, rfl⟩

theorem encValue_std {α : Type} [DecidableEq α] {default : α → List Byte} {e : Enc α} (h : e = .std) (a : α) :
    encValue default e a = default a := by
  rw [h, encValue]

theorem encValue_table_head {α : Type} [DecidableEq α] {default : α → List Byte} {e : Enc α} {a : α} {bytes : List Byte}
    {rows : List (α × List Byte)} (h : e = .table ((a, bytes) :: rows)) : encValue default e a = bytes := by
  simp [h, encValue, tableBytes]

/-- Settles O43: each arm is one `sendCommand` of its controller's opcode, and the `ENC_*` functions are R152's or the
table's. -/
theorem controllerCommandsSent : Obligations.ControllerCommandsSent := by
  unfold Obligations.ControllerCommandsSent
  intro s d m n u v bytes sent o e
  refine ⟨rfl, rfl, rfl, rfl, rfl, rfl, rfl, rfl, rfl, rfl, rfl, rfl, rfl, rfl, fun h => encValue_std h _, fun h => ?_,
    fun h => encValue_std h _, fun h => ?_, fun _ => encValue_table_head, fun _ => encValue_table_head,
    fun _ => encValue_table_head, fun _ => encValue_table_head⟩
  · rw [encRowwin, encValue_std h, bytes16_eq_ofNat, bytes16_eq_ofNat]; rfl
  · rw [encRowcur, encValue_std h, bytes16_eq_ofNat]

/-! ### Triggers (R90, R175) -/

/-- A trigger writes the port record and the queue alone, and puts `TRIG(kind)` and its wait ahead of what was queued. -/
theorem trigger_order {s : State} (hd : s.dq = []) (k : TrigKind) :
    trigger k s = { s with panelOut := (trigger k s).panelOut, pq := (trigger k s).pq } ∧
      (trigger k s).panelOut.reverse ++ (trigger k s).pending =
        s.panelOut.reverse ++ trigPortOps s.cfg k ++ .wait (trigBound k) :: s.pending := by
  have hexec : exec ((PanelOp.trig k).instr true) { s with pq := s.pq } = .next (trigger k s) := by cases k <;> rfl
  refine ⟨?_, ?_⟩
  · cases hf : s.cfg.trigForm with
    | split => rw [trigger_split hf]
    | single f p => rw [trigger_single hf]
  · rw [exec_instr_order (.trig k) s.pq true s hd hexec]
    simp [State.pending, PanelOp.portOps, hd]

/-- Settles O44: `trigger_order` for both kinds, with `TRIG(kind)` in both forms written out. -/
theorem triggerThenWait : Obligations.TriggerThenWait := by
  unfold Obligations.TriggerThenWait
  intro s hd
  obtain ⟨hfull, hfullOps⟩ := trigger_order hd .full
  obtain ⟨hpart, hpartOps⟩ := trigger_order hd .part
  refine ⟨⟨trigger .full s, rfl, hfull, hfullOps.trans ?_⟩, ⟨trigger .part s, rfl, hpart, hpartOps.trans ?_⟩⟩ <;>
    unfold trigPortOps <;> cases s.cfg.trigForm <;> rfl

end Sys2Proof.Machine

/-! The CRC32 streamer (spec/40_checksum.md R100 to R105): one shift of R101's loop is linear over XOR and injective, and the
laws of the byte update and of the fold follow from these two facts. -/

namespace Sys2Proof.Machine

/-! ### One shift -/

/-- What a shift adds for the bit that it shifts out. -/
def crcFeedback (lsb : Bool) : Word := if lsb then crcPoly else 0

theorem crcShift_eq (t : Word) : crcShift t = (t >>> 1) ^^^ crcFeedback (t.getLsbD 0) := by
  unfold crcShift crcFeedback
  split
  · rfl
  · exact BitVec.xor_zero.symm

/-- `POLY` is added once for each operand with bit 0 set, and twice is not at all. -/
theorem crcFeedback_xor (a b : Bool) : crcFeedback (a ^^ b) = crcFeedback a ^^^ crcFeedback b := by
  cases a <;> cases b <;> rfl

theorem crcShift_xor (t u : Word) : crcShift (t ^^^ u) = crcShift t ^^^ crcShift u := by
  rw [crcShift_eq, crcShift_eq, crcShift_eq, BitVec.ushiftRight_xor_distrib, BitVec.getLsbD_xor, crcFeedback_xor]
  ac_rfl

/-- Bit 31 of `POLY` is 1, so bit 31 of the result recovers the bit shifted out (R105). -/
theorem crcShift_msb (t : Word) : (crcShift t).getLsbD 31 = t.getLsbD 0 := by
  have hfeedback : (crcFeedback (t.getLsbD 0)).getLsbD 31 = t.getLsbD 0 := by cases t.getLsbD 0 <;> rfl
  rw [crcShift_eq, BitVec.getLsbD_xor, hfeedback, BitVec.getLsbD_ushiftRight, BitVec.getLsbD_of_ge t 32 le_rfl,
    Bool.false_xor]

theorem crcShift_injective : Function.Injective crcShift := by
  intro t u h
  have hlsb : t.getLsbD 0 = u.getLsbD 0 := by rw [← crcShift_msb t, ← crcShift_msb u, h]
  have hrest : t >>> 1 = u >>> 1 := by
    rw [crcShift_eq, crcShift_eq, hlsb] at h
    exact (BitVec.xor_left_inj _).mp h
  apply BitVec.eq_of_getLsbD_eq
  intro i _
  cases i with
  | zero => exact hlsb
  | succ i => simpa [Nat.add_comm] using congrArg (·.getLsbD i) hrest

/-! ### Several shifts -/

theorem crcShifts_xor (n : Nat) (t u : Word) : crcShifts n (t ^^^ u) = crcShifts n t ^^^ crcShifts n u := by
  induction n generalizing t u with
  | zero => rfl
  | succ n ih => simp only [crcShifts, crcShift_xor, ih]

theorem crcShifts_injective (n : Nat) : Function.Injective (crcShifts n) := by
  induction n with
  | zero => exact Function.injective_id
  | succ n ih => exact ih.comp crcShift_injective

/-- `POLY` is never added while the bits shifted out are 0. -/
theorem crcShifts_of_low_clear (n : Nat) (t : Word) (h : ∀ i < n, t.getLsbD i = false) : crcShifts n t = t >>> n := by
  induction n generalizing t with
  | zero => simp [crcShifts]
  | succ n ih =>
    have hlow : ∀ i < n, (t >>> 1).getLsbD i = false := fun i hi => by
      rw [BitVec.getLsbD_ushiftRight]; exact h (1 + i) (by omega)
    have hshift : crcShift t = t >>> 1 := by
      rw [crcShift_eq, h 0 n.succ_pos]; exact BitVec.xor_zero
    rw [crcShifts, hshift, ih _ hlow, ← BitVec.shiftRight_add, Nat.add_comm]

/-! ### One byte (R101) -/

theorem crcUpdate_xor (s₁ s₂ : Word) (b₁ b₂ : Byte) :
    crcUpdate (s₁ ^^^ s₂) (b₁ ^^^ b₂) = crcUpdate s₁ b₁ ^^^ crcUpdate s₂ b₂ := by
  have hsplit : s₁ ^^^ s₂ ^^^ (b₁ ^^^ b₂).zeroExtend 32 = (s₁ ^^^ b₁.zeroExtend 32) ^^^ (s₂ ^^^ b₂.zeroExtend 32) := by
    rw [BitVec.zeroExtend_eq_setWidth, BitVec.setWidth_xor]
    ac_rfl
  rw [crcUpdate, hsplit, crcShifts_xor, crcUpdate, crcUpdate]

/-- A state is its high three bytes and its low byte. -/
theorem word_eq_high_xor_low (s : Word) : s = ((s >>> 8) <<< 8) ^^^ (s.extractLsb' 0 8).zeroExtend 32 := by
  apply BitVec.eq_of_getLsbD_eq
  intro i hi
  by_cases h8 : i < 8
  · simp [h8, hi]
  · simp [h8, hi, show 8 + (i - 8) = i by omega]

/-- The high three bytes are shifted down unchanged. -/
theorem crcUpdate_high (s : Word) : crcUpdate ((s >>> 8) <<< 8) 0 = s >>> 8 := by
  have hlow : ∀ i < 8, ((s >>> 8) <<< 8).getLsbD i = false := fun i hi => by simp [hi]
  have hshift : ((s >>> 8) <<< 8) >>> 8 = s >>> 8 := by
    apply BitVec.eq_of_getLsbD_eq
    intro i _
    simpa using fun h => BitVec.lt_of_getLsbD h
  calc crcUpdate ((s >>> 8) <<< 8) 0
      = crcShifts 8 ((s >>> 8) <<< 8) := by simp [crcUpdate]
    _ = s >>> 8 := by rw [crcShifts_of_low_clear 8 _ hlow, hshift]

/-- The low byte of the state takes part as the operand does. -/
theorem crcUpdate_low (l b : Byte) : crcUpdate (l.zeroExtend 32) b = crcUpdate 0 (l ^^^ b) := by
  simp [crcUpdate, BitVec.setWidth_xor]

theorem crcUpdate_eq_shift_xor (s : Word) (b : Byte) :
    crcUpdate s b = (s >>> 8) ^^^ crcUpdate 0 (s.extractLsb' 0 8 ^^^ b) := by
  calc crcUpdate s b
      = crcUpdate (((s >>> 8) <<< 8) ^^^ (s.extractLsb' 0 8).zeroExtend 32) (0 ^^^ b) := by
        rw [← word_eq_high_xor_low]; exact congrArg (crcUpdate s) BitVec.zero_xor.symm
    _ = (s >>> 8) ^^^ crcUpdate 0 (s.extractLsb' 0 8 ^^^ b) := by rw [crcUpdate_xor, crcUpdate_high, crcUpdate_low]

/-- Settles O7: linearity is that of the shifts, the byte recurrence splits the state into its high and low bytes, and the
eight values are computed. -/
theorem crcUpdateIsLinear : Obligations.CrcUpdateIsLinear := by
  unfold Obligations.CrcUpdateIsLinear
  exact ⟨crcUpdate_xor, crcUpdate_eq_shift_xor, by decide, by decide, by decide, by decide, by decide, by decide,
    by decide, by decide⟩

/-! ### Folds (R102 to R104) -/

theorem crcFold_append (s : Word) (p q : List Byte) : crcFold s (p ++ q) = crcFold (crcFold s p) q := by
  induction p generalizing s with
  | nil => rfl
  | cons b p ih => exact ih (crcUpdate s b)

/-- Settles O8: `crc32` is the streaming computation from `crcInit`, whose value is the literal, and the fold takes a
concatenation part by part. -/
theorem crcStreamingEqualsBulk : Obligations.CrcStreamingEqualsBulk := by
  unfold Obligations.CrcStreamingEqualsBulk
  exact ⟨fun p => by rw [crc32, crcInit], crcFold_append⟩

/-! ### Error detection (R105) -/

theorem crcUpdate_injective_state (b : Byte) : Function.Injective (crcUpdate · b) := fun _ _ h =>
  (BitVec.xor_left_inj _).mp (crcShifts_injective 8 h)

theorem crcUpdate_injective_byte (s : Word) : Function.Injective (crcUpdate s) := fun b₁ b₂ h => by
  have hext : b₁.zeroExtend 32 = b₂.zeroExtend 32 := (BitVec.xor_right_inj s).mp (crcShifts_injective 8 h)
  simpa using congrArg (BitVec.setWidth 8) hext

theorem crcFold_injective_state (p : List Byte) : Function.Injective (crcFold · p) := by
  induction p with
  | nil => exact Function.injective_id
  | cons b p ih => exact ih.comp (crcUpdate_injective_state b)

theorem crcFinal_injective : Function.Injective crcFinal := fun _ _ => (BitVec.xor_left_inj _).mp

/-- Payloads that differ in one byte alone differ in their CRC32. -/
theorem crc32_injective_byte (p q : List Byte) : Function.Injective fun b => crc32 (p ++ b :: q) := fun b₁ b₂ h => by
  have hfold : crcFold crcInit (p ++ b₁ :: q) = crcFold crcInit (p ++ b₂ :: q) := crcFinal_injective h
  rw [crcFold_append, crcFold_append] at hfold
  exact crcUpdate_injective_byte _ (crcFold_injective_state q hfold)

theorem byte_bit_ne_zero {k : Nat} (hk : k < 8) : (1#8 <<< k : Byte) ≠ 0 := by
  intro h
  simpa [hk] using congrArg (·.getLsbD k) h

/-- Settles O9: a flipped bit changes its byte, and `crc32_injective_byte` carries the difference to the CRC32. -/
theorem crcDetectsSingleBitErrors : Obligations.CrcDetectsSingleBitErrors := by
  unfold Obligations.CrcDetectsSingleBitErrors
  intro p q b k hk h
  have hbyte : b ^^^ (1#8 <<< k) = b := crc32_injective_byte p q h
  exact byte_bit_ne_zero hk (xor_left_eq_self_iff.mp hbyte)

end Sys2Proof.Machine

/-! The byte rules of the frame receiver (spec/41_frame_receiver.md R111 to R119): what one byte does to the window, to a
field, to the payload and to the trailer. -/

namespace Sys2Proof.Machine

section
variable {s t : State} {b : Byte}

/-! ### The window (R111) -/

theorem State.window_length (s : State) : s.window.length = min s.winCnt.toNat 4 := by
  simp [State.window]

theorem winCnt_cases {n : BitVec 3} (h : n.toNat ≤ 3) : n = 0 ∨ n = 1 ∨ n = 2 ∨ n = 3 := by
  revert n
  decide

/-- `s` with the window of `w`, its count included: all that `RX_SEEK` changes short of MAGIC. -/
def State.withHeldOf (s w : State) : State := { s with winCnt := w.winCnt }.withWindowOf w

@[simp] theorem State.withHeldOf_window (s w : State) : (s.withHeldOf w).window = w.window := rfl

/-- With MAGIC in the full window the receiver goes to READ_LENGTH. -/
theorem seekByte_of_magic (h : s.winCnt.toNat ≤ 3) (hm : s.window ++ [b] = magic) :
    seekByte b s = .ok { s with winCnt := 0, fldAcc := 0, fldCnt := 0, rxState := .readLength } := by
  have hfour : s.window.length + 1 = 4 := by simpa [magic] using congrArg List.length hm
  have h3 : s.winCnt = 3 := BitVec.eq_of_toNat_eq (by have := s.window_length; simp; omega)
  have hwin : [s.win0, s.win1, s.win2, b] = magic := by simpa [State.window, h3] using hm
  simp [seekByte, h3, hwin]

/-- Without MAGIC the byte joins the window, and the oldest byte of a full one is dropped. -/
theorem seekByte_of_ne_magic (h : s.winCnt.toNat ≤ 3) (hm : s.window ++ [b] ≠ magic) :
    ∃ w : State, seekByte b s = .ok (s.withHeldOf w) ∧
      w.window = if s.winCnt.toNat = 3 then (s.window ++ [b]).drop 1 else s.window ++ [b] := by
  rcases winCnt_cases h with hc | hc | hc | hc
  · exact ⟨{ s with win0 := b, winCnt := 1 }, by simp [seekByte, hc]; rfl, by simp [State.window, hc]⟩
  · exact ⟨{ s with win1 := b, winCnt := 2 }, by simp [seekByte, hc]; rfl, by simp [State.window, hc]⟩
  · exact ⟨{ s with win2 := b, winCnt := 3 }, by simp [seekByte, hc]; rfl, by simp [State.window, hc]⟩
  · have hwin : [s.win0, s.win1, s.win2, b] ≠ magic := by simpa [State.window, hc] using hm
    exact ⟨{ s with win0 := s.win1, win1 := s.win2, win2 := b, winCnt := 3 },
      by simp [seekByte, hc, hwin]; rfl, by simp [State.window, hc]⟩

/-- Without MAGIC the window then holds the last of its bytes, three of them at most. -/
theorem seekByte_slides (h : s.winCnt.toNat ≤ 3) (hm : s.window ++ [b] ≠ magic) :
    ∃ w : State, seekByte b s = .ok (s.withHeldOf w) ∧ w.window <:+ s.window ++ [b] ∧
      w.window.length = min 3 (s.window.length + 1) := by
  obtain ⟨w, hseek, hwin⟩ := seekByte_of_ne_magic h hm
  have hlen := s.window_length
  refine ⟨w, hseek, ?_⟩
  rw [hwin]
  split_ifs with h3
  · exact ⟨List.drop_suffix _ _, by simp; omega⟩
  · exact ⟨List.suffix_rfl, by simp; omega⟩

/-! ### A field (R82, R113, R114) -/

theorem toNat_append_byte {n : Nat} (hi : BitVec n) (lo : Byte) : (hi ++ lo).toNat = lo.toNat + 2 ^ 8 * hi.toNat := by
  rw [BitVec.toNat_append, Nat.shiftLeft_eq, Nat.mul_comm, ← Nat.two_pow_add_eq_or_of_lt lo.isLt, Nat.add_comm]

theorem toNat_le32 (b0 b1 b2 b3 : Byte) :
    (le32 b0 b1 b2 b3).toNat = b0.toNat + 2 ^ 8 * b1.toNat + 2 ^ 16 * b2.toNat + 2 ^ 24 * b3.toNat := by
  have h : (le32 b0 b1 b2 b3).toNat = b0.toNat + 2 ^ 8 * (b1.toNat + 2 ^ 8 * (b2.toNat + 2 ^ 8 * b3.toNat)) := by
    rw [← toNat_append_byte b3 b2, ← toNat_append_byte _ b1, ← toNat_append_byte _ b0]
    rfl
  omega

/-- From an empty accumulator, four bytes are the little-endian field. -/
theorem fieldLast_fieldBytes (ha : s.fldAcc = 0) (hc : s.fldCnt = 0) (b0 b1 b2 b3 : Byte) :
    fieldLast b3 (fieldByte b2 (fieldByte b1 (fieldByte b0 s))) = le32 b0 b1 b2 b3 := by
  apply BitVec.eq_of_getLsbD_eq
  intro i hi
  have hbits : (fieldLast b3 (fieldByte b2 (fieldByte b1 (fieldByte b0 s)))).getLsbD i =
      (b0.getLsbD i || !decide (i < 8) && b1.getLsbD (i - 8) || !decide (i < 16) && b2.getLsbD (i - 16) ||
        !decide (i < 24) && b3.getLsbD (i - 24)) := by
    simp [fieldLast, ha, hc, hi]
  rw [hbits, getLsbD_le32]
  grind

/-! ### The payload (R116) -/

theorem payByte_rxByte (h : payByte b s = .ok t) (a : Nat) :
    t.rxByte a = if a = s.payCnt then some b else s.rxByte a := by
  obtain ⟨hmax, hcases⟩ := payByte_ok h
  have hstore : writeRxbuf s s.payCnt b = .ok { s with rxbuf := Mem.put none s.rxbuf s.payCnt b } := if_pos hmax
  rcases hcases with ⟨-, rfl⟩ | ⟨-, rfl⟩ <;> exact writeRxbuf_rxByte hstore a

/-! ### The trailer (R102, R118) -/

theorem crcFinal_eq_not (w : Word) : crcFinal w = ~~~w := BitVec.xor_allOnes

end

/-- Settles O10: the window's bytes with the new one are MAGIC, or they are not. -/
theorem seekByteSlidesWindow : Obligations.SeekByteSlidesWindow := by
  unfold Obligations.SeekByteSlidesWindow
  intro s b h
  by_cases hm : s.window ++ [b] = magic
  · exact ⟨_, congrArg outcome (seekByte_of_magic h hm), fun _ => rfl, absurd hm⟩
  · obtain ⟨w, hseek, hwin⟩ := seekByte_of_ne_magic h hm
    exact ⟨_, congrArg outcome hseek, fun hc => absurd hc hm, fun _ => ⟨hwin, rfl⟩⟩

/-- Settles O11: both fields are assembled by `fieldByte`, and four bytes of it are the little-endian field. -/
theorem fieldBytesAssembleLittleEndian : Obligations.FieldBytesAssembleLittleEndian := by
  unfold Obligations.FieldBytesAssembleLittleEndian
  intro s b0 b1 b2 b3 field hfield
  have hexec : ∀ b u, exec (field b) u = .next (fieldByte b u) := by
    rcases hfield with rfl | rfl <;> exact fun _ _ => rfl
  refine ⟨fun _ => hexec b0 s, fun ha hc => ⟨_, _, _, hexec b0 _, hexec b1 _, hexec b2 _, ?_, ?_, ?_, rfl, ?_⟩⟩
  · simp [hc]
  · simp [hc]
  · simp [hc]
  · rw [fieldLast_fieldBytes ha hc, toNat_le32]

/-- Settles O12, by the two things the last LENGTH byte can do. -/
theorem lengthAcceptedOrRefused : Obligations.LengthAcceptedOrRefused := by
  unfold Obligations.LengthAcceptedOrRefused
  rintro s b _ rfl
  rcases lenLastByte_cases b s with ⟨ha, e⟩ | ⟨ha, e⟩
  · exact ⟨fun _ => congrArg Host.Outcome.next e, absurd (acceptLen_iff.1 ha)⟩
  · have hn := mt acceptLen_iff.2 (Bool.eq_false_iff.1 ha)
    exact ⟨fun h => absurd h hn, fun _ => ⟨_, congrArg Host.Outcome.next e, rfl⟩⟩

/-- Settles O13, by the two things a stored payload byte can do. -/
theorem payloadByteStored : Obligations.PayloadByteStored := by
  unfold Obligations.PayloadByteStored
  refine fun s b => ⟨fun hmax => ?_, fun hmax => congrArg outcome (payByte_fault hmax)⟩
  obtain ⟨t, ht⟩ := payByte_isOk (b := b) hmax
  refine ⟨t, congrArg outcome ht, payByte_rxByte ht, ?_⟩
  obtain ⟨-, ⟨hlast, rfl⟩ | ⟨hmore, rfl⟩⟩ := payByte_ok ht
  · exact ⟨rfl, rfl, fun _ => ⟨rfl, rfl, rfl⟩, absurd hlast, rfl⟩
  · exact ⟨rfl, rfl, fun hlast => absurd hlast hmore, fun _ => ⟨rfl, rfl, rfl⟩, rfl⟩

/-- Settles O14, by the two things the last trailer byte can do. -/
theorem trailerEmitsOrRefuses : Obligations.TrailerEmitsOrRefuses := by
  unfold Obligations.TrailerEmitsOrRefuses
  rintro s b _ rfl
  rw [← crcFinal_eq_not]
  rcases crcLastByte_cases b s with ⟨hc, e⟩ | ⟨hc, e⟩
  · exact ⟨_, congrArg Host.Outcome.next e, fun _ => rfl, absurd hc⟩
  · exact ⟨_, congrArg Host.Outcome.next e, fun h => absurd h hc, fun _ => rfl⟩

end Sys2Proof.Machine

/-! A whole wire frame (spec/41_frame_receiver.md R110 to R126): what the receiver does with noise, MAGIC, LENGTH, payload and
trailer, each as one sequence of bytes, and the four sequences put together. -/

namespace Sys2Proof.Machine

section
variable {s : State}

/-! ### Noise and MAGIC (R111, R112) -/

theorem receiveByte_seek (b : Byte) (hx : s.rxState = .seekMagic) : receiveByte b s = seekByte b s := by
  simp [receiveByte, hx]

/-- Bytes in which MAGIC does not occur slide through the window, which then holds the last of them. -/
theorem receiveBytes_noise {l : List Byte} (hp : s.phase = .receive) (hx : s.rxState = .seekMagic)
    (hc : s.winCnt.toNat ≤ 3) (hm : ¬ magic <:+: s.window ++ l) :
    ∃ w : State, (∀ rest, receiveBytes (l ++ rest) s = receiveBytes rest (s.withHeldOf w)) ∧
      w.window <:+ s.window ++ l ∧ w.window.length = min 3 (s.window.length + l.length) := by
  induction l generalizing s with
  | nil =>
    refine ⟨s, fun _ => rfl, by simp, ?_⟩
    have := s.window_length
    simp only [List.length_nil]
    omega
  | cons b l ih =>
    have hne : s.window ++ [b] ≠ magic := fun h => hm ⟨[], l, by simp [← h]⟩
    obtain ⟨v, hseek, ⟨u, hu⟩, hlen⟩ := seekByte_slides hc hne
    have hsplit : u ++ (v.window ++ l) = s.window ++ b :: l := by
      rw [← List.append_assoc, hu, List.append_assoc, List.singleton_append]
    have hsuffix : v.window ++ l <:+ s.window ++ b :: l := ⟨u, hsplit⟩
    have hheld : v.winCnt.toNat ≤ 3 := by have := v.window_length; omega
    have hrecv : receiveByte b s = .ok (s.withHeldOf v) := (receiveByte_seek b hx).trans hseek
    obtain ⟨w, hrun, hw, hwlen⟩ :=
      ih (s := s.withHeldOf v) hp hx hheld fun h => hm (h.trans hsuffix.isInfix)
    refine ⟨w, fun rest => (receiveBytes_cons hp hrecv).trans (hrun rest), hw.trans hsuffix, ?_⟩
    simp only [State.withHeldOf_window] at hwlen
    simp only [List.length_cons]
    omega

/-- `s` at the start of LENGTH, with what is left of `w` in the emptied window. -/
def State.startLength (s w : State) : State :=
  { s with winCnt := 0, fldAcc := 0, fldCnt := 0, rxState := .readLength }.withWindowOf w

/-- MAGIC, after bytes in which it does not occur earlier, moves the receiver to READ_LENGTH. -/
theorem receiveBytes_magic {noise : List Byte} (hp : s.phase = .receive) (hx : s.rxState = .seekMagic)
    (hc : s.winCnt = 0) (hm : ¬ magic <:+: noise ++ magic.take 3) :
    ∃ w : State, ∀ rest, receiveBytes (noise ++ (magic ++ rest)) s = receiveBytes rest (s.startLength w) := by
  have hempty : s.window = [] := by simp [State.window, hc]
  obtain ⟨w, hrun, hsuffix, hlen⟩ := receiveBytes_noise (l := noise ++ magic.take 3) hp hx (by simp [hc])
    (by rwa [hempty])
  rw [hempty, List.nil_append] at hsuffix
  have hthree : w.window.length = 3 := by simpa [hempty, magic] using hlen
  have hwin : w.window = magic.take 3 :=
    (List.suffix_of_suffix_length_le hsuffix (List.suffix_append _ _) hthree.le).eq_of_length hthree
  have hheld : w.winCnt.toNat ≤ 3 := by have := w.window_length; omega
  have hseek := seekByte_of_magic (s := s.withHeldOf w) (b := 0x31#8) hheld (by rw [State.withHeldOf_window, hwin]; rfl)
  refine ⟨w, fun rest => ?_⟩
  calc receiveBytes (noise ++ (magic ++ rest)) s
      = receiveBytes ((noise ++ magic.take 3) ++ 0x31#8 :: rest) s := by rw [List.append_assoc]; rfl
    _ = receiveBytes (0x31#8 :: rest) (s.withHeldOf w) := hrun _
    _ = receiveBytes rest (s.startLength w) :=
      receiveBytes_cons hp ((receiveByte_seek (s := s.withHeldOf w) _ hx).trans hseek)

/-- Where MAGIC does not begin in the noise, it does not occur before its own last byte (R112). -/
theorem magic_not_infix {noise : List Byte} (h : ∀ k, k < noise.length → ((noise ++ magic).drop k).take 4 ≠ magic) :
    ¬ magic <:+: noise ++ magic.take 3 := by
  rintro ⟨u, v, huv⟩
  have hlen := congrArg List.length huv
  simp only [List.length_append, magic, List.length_cons, List.length_nil, List.length_take] at hlen
  refine h u.length (by omega) ?_
  have hsplit : noise ++ magic = u ++ (magic ++ (v ++ magic.drop 3)) := by
    rw [← List.append_assoc magic, ← List.append_assoc u, ← List.append_assoc u, huv, List.append_assoc,
      List.take_append_drop]
  rw [hsplit, List.drop_left]
  rfl

/-! ### A field (R113, R117) -/

theorem receiveByte_field (b : Byte) (hx : s.rxState = .readLength ∨ s.rxState = .readCrc) (hc : s.fldCnt ≠ 3) :
    receiveByte b s = .ok (fieldByte b s) := by
  rcases hx with hx | hx <;> simp only [receiveByte, hx, if_neg hc]

/-- `s` with the field registers set. -/
def State.withField (s : State) (acc : Word) (cnt : BitVec 2) : State := { s with fldAcc := acc, fldCnt := cnt }

/-- The first three bytes of a field leave its last byte to complete the value. -/
theorem receiveBytes_field (v : Word) (hp : s.phase = .receive) (hx : s.rxState = .readLength ∨ s.rxState = .readCrc)
    (ha : s.fldAcc = 0) (hc : s.fldCnt = 0) :
    ∃ acc, fieldLast (byteOf v 3) (s.withField acc 3) = v ∧
      ∀ rest, receiveBytes (bytes32 v ++ rest) s = receiveBytes (byteOf v 3 :: rest) (s.withField acc 3) := by
  let s1 := fieldByte (byteOf v 0) s
  let s2 := fieldByte (byteOf v 1) s1
  let s3 := fieldByte (byteOf v 2) s2
  have h3 : s.withField s3.fldAcc 3 = s3 := by simp [State.withField, s3, s2, s1, fieldByte, hc]
  refine ⟨s3.fldAcc, ?_, fun rest => ?_⟩
  · rw [h3]
    exact (fieldLast_fieldBytes ha hc _ _ _ _).trans (le32_bytes32 v)
  · rw [h3]
    calc receiveBytes (bytes32 v ++ rest) s
        = receiveBytes (byteOf v 1 :: byteOf v 2 :: byteOf v 3 :: rest) s1 :=
          receiveBytes_cons hp (receiveByte_field _ hx (by simp [hc]))
      _ = receiveBytes (byteOf v 2 :: byteOf v 3 :: rest) s2 :=
          receiveBytes_cons hp (receiveByte_field _ hx (by simp [s1, hc]))
      _ = receiveBytes (byteOf v 3 :: rest) s3 :=
          receiveBytes_cons hp (receiveByte_field _ hx (by simp [s2, s1, hc]))

/-! ### LENGTH (R114, R115) -/

/-- `s` at the start of a payload of length `len`. -/
def State.startPayload (s : State) (len : Word) : State :=
  { s with frmLen := len, payCnt := 0, crc := crcInit, rxState := .readPayload }

theorem receiveByte_lenLast (b : Byte) (hx : s.rxState = .readLength) (hc : s.fldCnt = 3) :
    receiveByte b s = .ok (lenLastByte b s) := by
  simp [receiveByte, hx, hc]

theorem lenLastByte_accepts {b : Byte} (h : acceptLen s.cfg (fieldLast b s).toNat = true) :
    lenLastByte b s = (s.withField s.fldAcc 0).startPayload (fieldLast b s) := if_pos h

theorem lenLastByte_refuses {b : Byte} (h : acceptLen s.cfg (fieldLast b s).toNat = false) :
    lenLastByte b s = raiseCond .badLength (s.withField s.fldAcc 0) := if_neg (Bool.eq_false_iff.1 h)

/-- LENGTH is read, and its last byte decides. -/
theorem receiveBytes_len (len : Word) (hp : s.phase = .receive) (hx : s.rxState = .readLength) (ha : s.fldAcc = 0)
    (hc : s.fldCnt = 0) :
    ∃ acc, fieldLast (byteOf len 3) (s.withField acc 3) = len ∧ ∀ rest,
      receiveBytes (bytes32 len ++ rest) s = receiveBytes rest (lenLastByte (byteOf len 3) (s.withField acc 3)) := by
  obtain ⟨acc, hval, hrun⟩ := receiveBytes_field len hp (.inl hx) ha hc
  exact ⟨acc, hval, fun rest => (hrun rest).trans (receiveBytes_cons hp (receiveByte_lenLast _ hx rfl))⟩

theorem receiveBytes_len_accepted {len : Word} (hp : s.phase = .receive) (hx : s.rxState = .readLength)
    (ha : s.fldAcc = 0) (hc : s.fldCnt = 0) (hok : acceptLen s.cfg len.toNat = true) :
    ∃ acc, ∀ rest, receiveBytes (bytes32 len ++ rest) s =
      receiveBytes rest ((s.withField acc 0).startPayload len) := by
  obtain ⟨acc, hval, hrun⟩ := receiveBytes_len len hp hx ha hc
  have hlast := lenLastByte_accepts (s := s.withField acc 3) (b := byteOf len 3) (by rw [hval]; exact hok)
  exact ⟨acc, fun rest => by rw [hrun, hlast, hval]; rfl⟩

/-- After a refused LENGTH the receiver takes no byte (R125). -/
theorem receiveBytes_len_refused {len : Word} (hp : s.phase = .receive) (hx : s.rxState = .readLength)
    (ha : s.fldAcc = 0) (hc : s.fldCnt = 0) (hno : acceptLen s.cfg len.toNat = false) :
    ∃ acc, ∀ rest, receiveBytes (bytes32 len ++ rest) s =
      .ok { raiseCond .badLength (s.withField acc 0) with hostQ := rest ++ s.hostQ } := by
  obtain ⟨acc, hval, hrun⟩ := receiveBytes_len len hp hx ha hc
  have hlast := lenLastByte_refuses (s := s.withField acc 3) (b := byteOf len 3) (by rw [hval]; exact hno)
  exact ⟨acc, fun rest => by rw [hrun, hlast]; exact receiveBytes_held nofun⟩

/-! ### The payload (R116) -/

/-- A memory after the bytes are stored one after the other from address `a` on. -/
def storeBytes : Nat → List Byte → Mem → Mem
  | _, [], m => m
  | a, b :: bs, m => storeBytes (a + 1) bs (Mem.put none m a b)

theorem read_storeBytes_below {a i : Nat} (h : i < a) (bs : List Byte) (m : Mem) :
    Mem.read none (storeBytes a bs m) i = Mem.read none m i := by
  induction bs generalizing a m with
  | nil => rfl
  | cons b bs ih => rw [storeBytes, ih (by omega), Mem.read_put_none, if_neg (by omega)]

theorem read_storeBytes (a i : Nat) (bs : List Byte) (m : Mem) :
    Mem.read none (storeBytes a bs m) (a + i) = bs[i]?.or (Mem.read none m (a + i)) := by
  induction bs generalizing a i m with
  | nil => simp [storeBytes]
  | cons b bs ih =>
    cases i with
    | zero => simp [storeBytes, read_storeBytes_below a.lt_succ_self, Mem.read_put_none]
    | succ i =>
      have hi : a + (i + 1) = a + 1 + i := by omega
      rw [storeBytes, hi, ih, Mem.read_put_none, if_neg (by omega), List.getElem?_cons_succ]

/-- `s` with payload bytes stored from `pay_cnt` on, folded and counted. -/
def State.store (s : State) (p : List Byte) : State :=
  { s with rxbuf := storeBytes s.payCnt p s.rxbuf, crc := crcFold s.crc p, payCnt := s.payCnt + p.length }

theorem State.store_cons (s : State) (b : Byte) (p : List Byte) : s.store (b :: p) = (s.store [b]).store p := by
  simp [State.store, storeBytes, crcFold, Nat.add_assoc, Nat.add_comm]

/-- `s` at the start of the trailer. -/
def State.startTrailer (s : State) : State := { s with fldAcc := 0, fldCnt := 0, rxState := .readCrc }

theorem receiveByte_payload (b : Byte) (hx : s.rxState = .readPayload) : receiveByte b s = payByte b s := by
  simp [receiveByte, hx]

theorem payByte_last {b : Byte} (hmax : s.payCnt < s.cfg.maxlen) (hl : s.payCnt + 1 = s.frmLen.toNat) :
    payByte b s = .ok (s.store [b]).startTrailer := by
  simp only [payByte, writeRxbuf, if_pos hmax, if_pos hl]
  rfl

theorem payByte_more {b : Byte} (hmax : s.payCnt < s.cfg.maxlen) (hl : s.payCnt + 1 ≠ s.frmLen.toNat) :
    payByte b s = .ok (s.store [b]) := by
  simp only [payByte, writeRxbuf, if_pos hmax, if_neg hl]
  rfl

/-- The rest of a payload is stored, folded and counted, and its last byte moves the receiver to READ_CRC. -/
theorem receiveBytes_payload {p : List Byte} (hp : s.phase = .receive) (hx : s.rxState = .readPayload) (hne : p ≠ [])
    (hlen : s.payCnt + p.length = s.frmLen.toNat) (hmax : s.frmLen.toNat ≤ s.cfg.maxlen) (rest : List Byte) :
    receiveBytes (p ++ rest) s = receiveBytes rest (s.store p).startTrailer := by
  induction p generalizing s with
  | nil => exact absurd rfl hne
  | cons b p ih =>
    rw [List.length_cons] at hlen
    have hroom : s.payCnt < s.cfg.maxlen := by omega
    cases p with
    | nil => exact receiveBytes_cons hp ((receiveByte_payload b hx).trans (payByte_last hroom hlen))
    | cons b' p =>
      have hmore : s.payCnt + 1 ≠ s.frmLen.toNat := by rw [List.length_cons] at hlen; omega
      have hrest : (s.store [b]).payCnt + (b' :: p).length = s.frmLen.toNat := by
        rw [← hlen, Nat.add_comm _ 1, ← Nat.add_assoc]; rfl
      rw [List.cons_append, receiveBytes_cons hp ((receiveByte_payload b hx).trans (payByte_more hroom hmore)),
        ih (s := s.store [b]) hp hx (List.cons_ne_nil _ _) hrest hmax, ← State.store_cons]

/-! ### The trailer (R118, R119, R121) -/

theorem receiveByte_crcLast (b : Byte) (hx : s.rxState = .readCrc) (hc : s.fldCnt = 3) :
    receiveByte b s = .ok (crcLastByte b s) := by
  simp [receiveByte, hx, hc]

theorem crcLastByte_emits {b : Byte} (h : fieldLast b s = crcFinal s.crc) :
    crcLastByte b s = emitFrame (s.withField s.fldAcc 0) := if_pos h

theorem crcLastByte_refuses {b : Byte} (h : fieldLast b s ≠ crcFinal s.crc) :
    crcLastByte b s = raiseCond .badChecksum (s.withField s.fldAcc 0) := if_neg h

/-- A trailer emits the frame, or is refused. -/
theorem receiveBytes_trailer (v : Word) (hp : s.phase = .receive) (hx : s.rxState = .readCrc) (ha : s.fldAcc = 0)
    (hc : s.fldCnt = 0) :
    ∃ acc, (v = crcFinal s.crc →
        receiveBytes (bytes32 v) s = .ok (emitFrame (s.withField acc 0))) ∧
      (v ≠ crcFinal s.crc →
        receiveBytes (bytes32 v) s = .ok (raiseCond .badChecksum (s.withField acc 0))) := by
  obtain ⟨acc, hval, hrun⟩ := receiveBytes_field v hp (.inr hx) ha hc
  have hlast : receiveBytes (bytes32 v) s = .ok (crcLastByte (byteOf v 3) (s.withField acc 3)) := by
    rw [← List.append_nil (bytes32 v), hrun]
    exact receiveBytes_cons hp (receiveByte_crcLast _ hx rfl)
  exact ⟨acc, fun h => hlast.trans (congrArg Except.ok (crcLastByte_emits (hval.trans h))),
    fun h => hlast.trans (congrArg Except.ok (crcLastByte_refuses (hval.trans_ne h)))⟩

end

/-! ### A frame (R126) -/

/-- The receiver searches with an empty window, and `p` is a payload of an accepted length (R115). -/
structure AwaitsPayload (s : State) (p : List Byte) : Prop where
  phase : s.phase = .receive
  rxState : s.rxState = .seekMagic
  winCnt : s.winCnt = 0
  fits : p.length < 2 ^ 32
  accepted : p.length = s.cfg.fb ∨ p.length = s.cfg.fb + 1 ∨ (9 ≤ p.length ∧ p.length ≤ s.cfg.fb + 9)
  nonempty : p ≠ []

/-- `s` with a frame received up to its trailer: the payload `p` captured and folded, and what is left of `w` in the
emptied window. -/
def State.captured (s : State) (p : List Byte) (w : State) : State :=
  (((s.startLength w).startPayload (BitVec.ofNat 32 p.length)).store p).startTrailer

section
variable {s : State} {p noise : List Byte}

theorem AwaitsPayload.toNat_length (h : AwaitsPayload s p) : (BitVec.ofNat 32 p.length).toNat = p.length :=
  Nat.mod_eq_of_lt h.fits

theorem AwaitsPayload.length_le (h : AwaitsPayload s p) : p.length ≤ s.cfg.maxlen := by
  have := h.accepted
  unfold Config.maxlen
  omega

/-- Noise and frame, but for the trailer, are captured. -/
theorem receiveBytes_captured (h : AwaitsPayload s p) (hm : ¬ magic <:+: noise ++ magic.take 3) :
    ∃ w, ∀ crc, receiveBytes (noise ++ wireBytes (BitVec.ofNat 32 p.length) p crc) s =
      receiveBytes (bytes32 crc) (s.captured p w) := by
  have hlen := h.toNat_length
  obtain ⟨w, hmagic⟩ := receiveBytes_magic h.phase h.rxState h.winCnt hm
  obtain ⟨acc, hlength⟩ := receiveBytes_len_accepted (s := s.startLength w) (len := BitVec.ofNat 32 p.length) h.phase rfl
    rfl rfl (acceptLen_iff.2 (by rw [hlen]; exact h.accepted))
  have hpayload := receiveBytes_payload
    (s := ((s.startLength w).withField acc 0).startPayload (BitVec.ofNat 32 p.length)) h.phase rfl h.nonempty
    ((Nat.zero_add _).trans hlen.symm) (hlen.trans_le h.length_le)
  refine ⟨w, fun crc => ?_⟩
  rw [wireBytes, List.append_assoc, List.append_assoc, hmagic, hlength, hpayload]
  rfl

/-- With the CRC32 of its payload for a trailer, the frame is emitted. -/
theorem receiveBytes_emitted (h : AwaitsPayload s p) (hm : ¬ magic <:+: noise ++ magic.take 3) :
    ∃ w acc, receiveBytes (noise ++ wireBytes (BitVec.ofNat 32 p.length) p (crc32 p)) s =
      .ok (emitFrame ((s.captured p w).withField acc 0)) := by
  obtain ⟨w, hcaptured⟩ := receiveBytes_captured h hm
  obtain ⟨acc, hemit, -⟩ := receiveBytes_trailer (s := s.captured p w) (crc32 p) h.phase rfl rfl rfl
  exact ⟨w, acc, (hcaptured _).trans (hemit rfl)⟩

/-- With another trailer, the frame is refused. -/
theorem receiveBytes_badCrc (h : AwaitsPayload s p) (hm : ¬ magic <:+: noise ++ magic.take 3) {crc : Word}
    (hcrc : crc ≠ crc32 p) :
    ∃ w acc, receiveBytes (noise ++ wireBytes (BitVec.ofNat 32 p.length) p crc) s =
      .ok (raiseCond .badChecksum ((s.captured p w).withField acc 0)) := by
  obtain ⟨w, hcaptured⟩ := receiveBytes_captured h hm
  obtain ⟨acc, -, hrefuse⟩ := receiveBytes_trailer (s := s.captured p w) crc h.phase rfl rfl rfl
  exact ⟨w, acc, (hcaptured _).trans (hrefuse hcrc)⟩

/-- RXBUF of a captured frame: the payload from address 0, and above it what was there. -/
theorem captured_rxByte (h : AwaitsPayload s p) (w : State) (a : Nat) :
    (s.captured p w).rxByte a = p[a]?.or (s.rxByte a) := by
  have hread := read_storeBytes 0 a p s.rxbuf
  rw [Nat.zero_add] at hread
  by_cases ha : a < s.cfg.maxlen
  · calc (s.captured p w).rxByte a = Mem.read none (storeBytes 0 p s.rxbuf) a := if_pos ha
      _ = p[a]?.or (s.rxByte a) := by rw [hread, State.rxByte, if_pos ha]
  · have hp : p.length ≤ a := h.length_le.trans (Nat.not_lt.1 ha)
    calc (s.captured p w).rxByte a = none := if_neg ha
      _ = p[a]?.or (s.rxByte a) := by rw [List.getElem?_eq_none hp, State.rxByte, if_neg ha]; rfl

theorem captured_holdsPayload (h : AwaitsPayload s p) (w : State) : (s.captured p w).holdsPayload p :=
  ⟨h.toNat_length, fun i hi => by simp [captured_rxByte h, hi]⟩

end

theorem magic_not_infix_nil : ¬ magic <:+: [] ++ magic.take 3 := magic_not_infix nofun

/-- Settles O15: the frame is emitted as captured, from an empty window. -/
theorem frameRoundTrip : Obligations.FrameRoundTrip := by
  unfold Obligations.FrameRoundTrip
  intro s p hp hx hc hlt hacc hne
  have h : AwaitsPayload s p := ⟨hp, hx, hc, hlt, hacc, hne⟩
  obtain ⟨w, acc, hrun⟩ := receiveBytes_emitted h magic_not_infix_nil
  refine ⟨_, congrArg outcome hrun, rfl, rfl, rfl, rfl, captured_holdsPayload h w, fun a ha => ?_, ?_⟩
  · exact (captured_rxByte h w a).trans (by simp [ha])
  · simp [emitFrame, resync, State.withField, State.captured, State.startTrailer, State.store, State.startPayload,
      State.startLength, State.withWindowOf, hx, hc]

/-- Settles O16: the noise slides through the window, and the frame is emitted as captured. -/
theorem noiseDoesNotHideFrame : Obligations.NoiseDoesNotHideFrame := by
  unfold Obligations.NoiseDoesNotHideFrame
  intro s noise p hp hx hc hlt hacc hne hnoise
  have h : AwaitsPayload s p := ⟨hp, hx, hc, hlt, hacc, hne⟩
  obtain ⟨w, acc, hrun⟩ := receiveBytes_emitted h (magic_not_infix hnoise)
  exact ⟨_, hrun, rfl, rfl, rfl, rfl, captured_holdsPayload h w, rfl, rfl, rfl, rfl⟩

/-- Settles O17: the trailer of the captured frame is refused. -/
theorem frameBadChecksumRefused : Obligations.FrameBadChecksumRefused := by
  unfold Obligations.FrameBadChecksumRefused
  intro s p crc hp hx hc hlt hacc hne hcrc
  obtain ⟨w, acc, hrun⟩ := receiveBytes_badCrc ⟨hp, hx, hc, hlt, hacc, hne⟩ magic_not_infix_nil hcrc
  exact ⟨_, congrArg outcome hrun, rfl, rfl, rfl, rfl, rfl, rfl, rfl, rfl, rfl, rfl, rfl⟩

/-- Settles O18: LENGTH is refused after MAGIC, and the rest of the frame is held upstream. -/
theorem frameBadLengthRefused : Obligations.FrameBadLengthRefused := by
  unfold Obligations.FrameBadLengthRefused
  intro s len p crc hp hx hc hno
  obtain ⟨w, hmagic⟩ := receiveBytes_magic hp hx hc magic_not_infix_nil
  obtain ⟨acc, hlength⟩ := receiveBytes_len_refused (s := s.startLength w) (len := len) hp rfl rfl rfl
    (Bool.eq_false_iff.2 (mt acceptLen_iff.1 hno))
  have hrun := (hmagic _).trans (hlength (p ++ bytes32 crc))
  rw [List.nil_append, ← List.append_assoc, ← List.append_assoc] at hrun
  refine ⟨_, congrArg outcome hrun, rfl, rfl, rfl, rfl, rfl, rfl, ?_⟩
  simp [State.startLength, State.withField, State.withWindowOf, resync, sendAck, hx, hc]

end Sys2Proof.Machine

/-! Steps of the receiver (spec/41_frame_receiver.md R110, R120, R123, R124): a frame taken one byte a step, the expiries, the
transfer of an acknowledgement, and the window at each return to SEEK_MAGIC. -/

namespace Sys2Proof.Machine

section
variable {s t : State}

/-! ### A step in RECEIVE (R110, R120, R240, R241) -/

/-- A host byte offered in RECEIVE is taken by the byte rule of the receiver's state. -/
theorem step_byte (hr : s.edge.rst = false) (hp : s.phase = .receive) (hv : s.edge.rxValid = true) {b : Byte}
    {rest : List Byte} (hq : s.hostQ = b :: rest) :
    step s = outcome (receiveByte b { s.tick with hostQ := rest }) :=
  (step_of_due (due_byte hr hp hv hq)).trans (exec_eventInstr_hostQ s.tick b rest)

/-- Without a byte, only the expiries are looked at. -/
theorem due_no_byte (hr : s.edge.rst = false) (hp : s.phase = .receive) (hno : s.edge.rxValid = false ∨ s.hostQ = []) :
    due s =
      if s.edge.expireField && decide (s.rxState ≠ .seekMagic) then .quiet (raiseCond .transportTimeout s.tick)
      else if s.edge.expireSeek && decide (s.rxState = .seekMagic) && decide (s.winCnt ≠ 0) then
        .quiet (expireSeek s.tick)
      else .quiet s.tick := by
  rw [due_of_not_rst hr]
  rcases hno with h | h <;> simp only [duePhase, State.tick_phase, hp, dueReceive, State.tick_hostQ, h]
  · rfl
  · cases s.edge.rxValid <;> rfl

/-- In SEEK_MAGIC only the search expiry acts; with an empty window it has nothing to empty. -/
theorem step_expireSeek (hr : s.edge.rst = false) (hp : s.phase = .receive)
    (hno : s.edge.rxValid = false ∨ s.hostQ = []) (hx : s.rxState = .seekMagic) (he : s.edge.expireSeek = true) :
    step s = .next (expireSeek s.tick) := by
  by_cases hc : s.winCnt = 0#3
  · have hsame : s.tick = expireSeek s.tick := by simp [expireSeek, State.tick, hc]
    rw [← hsame]
    exact step_of_quiet (by simp [due_no_byte hr hp hno, hx, hc])
  · exact step_of_quiet (by simp [due_no_byte hr hp hno, hx, he, hc])

/-! ### One byte a step (R110) -/

/-- `s` with these bytes waiting upstream. -/
def State.withHost (s : State) (q : List Byte) : State := { s with hostQ := q }

theorem seekByte_withHost (b : Byte) (s : State) (q : List Byte) :
    seekByte b (s.withHost q) = (seekByte b s).map fun t => t.withHost q := by
  simp only [seekByte, apply_ite (Except.map fun t : State => t.withHost q)]
  rfl

theorem lenLastByte_withHost (b : Byte) (s : State) (q : List Byte) :
    lenLastByte b (s.withHost q) = (lenLastByte b s).withHost q := by
  simp only [lenLastByte, apply_ite (fun t : State => t.withHost q)]
  rfl

theorem payByte_withHost (b : Byte) (s : State) (q : List Byte) :
    payByte b (s.withHost q) = (payByte b s).map fun t => t.withHost q := by
  by_cases hmax : s.payCnt < s.cfg.maxlen
  · by_cases hl : s.payCnt + 1 = s.frmLen.toNat
    · rw [payByte_last hmax hl]
      exact payByte_last (s := s.withHost q) hmax hl
    · rw [payByte_more hmax hl]
      exact payByte_more (s := s.withHost q) hmax hl
  · rw [payByte_fault (Nat.not_lt.1 hmax)]
    exact payByte_fault (s := s.withHost q) (Nat.not_lt.1 hmax)

theorem crcLastByte_withHost (b : Byte) (s : State) (q : List Byte) :
    crcLastByte b (s.withHost q) = (crcLastByte b s).withHost q := by
  simp only [crcLastByte, apply_ite (fun t : State => t.withHost q)]
  rfl

/-- A byte rule neither reads nor writes the bytes upstream. -/
theorem receiveByte_withHost (b : Byte) (s : State) (q : List Byte) :
    receiveByte b (s.withHost q) = (receiveByte b s).map fun t => t.withHost q := by
  have hfield (hx : s.rxState = .readLength ∨ s.rxState = .readCrc) (hc : s.fldCnt ≠ 3) :
      receiveByte b (s.withHost q) = (receiveByte b s).map fun t => t.withHost q := by
    rw [receiveByte_field b hx hc]
    exact receiveByte_field (s := s.withHost q) b hx hc
  cases hx : s.rxState
  case seekMagic =>
    rw [receiveByte_seek b hx, ← seekByte_withHost]
    exact receiveByte_seek (s := s.withHost q) b hx
  case readLength =>
    by_cases hc : s.fldCnt = 3
    · rw [receiveByte_lenLast b hx hc, receiveByte_lenLast (s := s.withHost q) b hx hc, lenLastByte_withHost]
      rfl
    · exact hfield (.inl hx) hc
  case readPayload =>
    rw [receiveByte_payload b hx, ← payByte_withHost]
    exact receiveByte_payload (s := s.withHost q) b hx
  case readCrc =>
    by_cases hc : s.fldCnt = 3
    · rw [receiveByte_crcLast b hx hc, receiveByte_crcLast (s := s.withHost q) b hx hc, crcLastByte_withHost]
      rfl
    · exact hfield (.inr hx) hc

/-- A byte rule leaves what the environment and the host hold. -/
theorem receiveByte_env_hostQ {b : Byte} (h : receiveByte b s = .ok t) : t.env = s.env ∧ t.hostQ = s.hostQ := by
  unfold receiveByte at h
  cases hx : s.rxState <;> simp only [hx] at h
  case seekMagic =>
    rcases seekByte_ok h with ⟨-, rfl⟩ | ⟨-, rfl⟩ | ⟨-, rfl⟩ | ⟨-, -, rfl⟩ | ⟨-, -, rfl⟩ <;> exact ⟨rfl, rfl⟩
  case readLength =>
    split_ifs at h <;> cases h
    · rcases lenLastByte_cases b s with ⟨-, e⟩ | ⟨-, e⟩ <;> rw [e] <;> exact ⟨rfl, rfl⟩
    · exact ⟨rfl, rfl⟩
  case readPayload => obtain ⟨-, ⟨-, rfl⟩ | ⟨-, rfl⟩⟩ := payByte_ok h <;> exact ⟨rfl, rfl⟩
  case readCrc =>
    split_ifs at h <;> cases h
    · rcases crcLastByte_cases b s with ⟨-, e⟩ | ⟨-, e⟩ <;> rw [e] <;> exact ⟨rfl, rfl⟩
    · exact ⟨rfl, rfl⟩

/-- With no inputs listed, the host offers its next byte (log 6). -/
theorem step_byte_calm (he : s.env = []) (hp : s.phase = .receive) (b : Byte) (q : List Byte) :
    step (s.withHost (b :: q)) = outcome (receiveByte b (s.withHost q)) := by
  have hcalm : (s.withHost (b :: q)).edge = Edge.calm := by simp [State.withHost, State.edge, he]
  have htick : (s.withHost (b :: q)).tick.withHost q = s.withHost q := by simp [State.withHost, State.tick, he]
  rw [← htick]
  exact step_byte (s := s.withHost (b :: q)) (by rw [hcalm]; rfl) hp (by rw [hcalm]; rfl) rfl

theorem run_succ {n : Nat} (h : step s = .next t) : Host.Core.run core (n + 1) s = Host.Core.run core n t := by
  simp only [Host.Core.run, show core.step s = .next t from h]

theorem run_fault {n : Nat} {f : Fault} (h : step s = .fault f) : Host.Core.run core (n + 1) s = .fault f := by
  simp only [Host.Core.run, show core.step s = .fault f from h]

theorem receiveBytes_fault {b : Byte} {bytes : List Byte} {f : Fault} (hp : s.phase = .receive)
    (h : receiveByte b s = .error f) : receiveBytes (b :: bytes) s = .error f := by
  simp [receiveBytes, hp, h]

/-- Bytes upstream, taken one a step until the receiver takes no more, are the bytes taken at once. -/
theorem run_receiveBytes (he : s.env = []) (bytes : List Byte) :
    ∃ n ≤ bytes.length, Host.Core.run core n (s.withHost (bytes ++ s.hostQ)) = outcome (receiveBytes bytes s) := by
  induction bytes generalizing s with
  | nil => exact ⟨0, le_rfl, rfl⟩
  | cons b bytes ih =>
    by_cases hp : s.phase = .receive
    · have hstep := step_byte_calm he hp b (bytes ++ s.hostQ)
      rw [receiveByte_withHost] at hstep
      cases hb : receiveByte b s with
      | error f =>
        rw [hb] at hstep
        exact ⟨1, by simp, (run_fault hstep).trans (congrArg outcome (receiveBytes_fault hp hb)).symm⟩
      | ok t =>
        rw [hb] at hstep
        obtain ⟨henv, hq⟩ := receiveByte_env_hostQ hb
        obtain ⟨n, hn, hrun⟩ := ih (s := t) (henv.trans he)
        rw [hq] at hrun
        refine ⟨n + 1, Nat.succ_le_succ hn, ?_⟩
        rw [receiveBytes_cons hp hb, ← hrun]
        exact run_succ hstep
    · exact ⟨0, Nat.zero_le _, (congrArg outcome (receiveBytes_held hp)).symm⟩

/-! ### The return to SEEK_MAGIC (R124) -/

/-- A byte rule brings the receiver into SEEK_MAGIC by a refusal or by the emission of the frame. -/
theorem receiveByte_seekMagic {b : Byte} (h : receiveByte b s = .ok t) (hs : s.rxState ≠ .seekMagic)
    (ht : t.rxState = .seekMagic) : t.winCnt = 0 := by
  unfold receiveByte at h
  cases hx : s.rxState <;> simp only [hx] at h
  case seekMagic => exact absurd hx hs
  case readLength =>
    split_ifs at h <;> cases h
    · rcases lenLastByte_cases b s with ⟨-, e⟩ | ⟨-, e⟩ <;> rw [e] at ht ⊢
      cases ht
    · exact absurd ht hs
  case readPayload =>
    obtain ⟨-, ⟨-, rfl⟩ | ⟨-, rfl⟩⟩ := payByte_ok h
    · cases ht
    · exact absurd ht hs
  case readCrc =>
    split_ifs at h <;> cases h
    · rcases crcLastByte_cases b s with ⟨-, e⟩ | ⟨-, e⟩ <;> rw [e]
    · exact absurd ht hs

@[simp] theorem sendData_rxState (s : State) : (sendData s).rxState = s.rxState := by
  cases hd : s.dq with
  | nil => rw [sendData_nil hd]
  | cons d ds => rw [sendData_cons hd]

@[simp] theorem ackTransfer_rxState (s : State) : (ackTransfer s).rxState = s.rxState := by
  cases hq : s.ackQ with
  | nil => rw [ackTransfer_nil hq]
  | cons b rest => rw [ackTransfer_cons hq]

theorem exec_instr_rxState {op : PanelOp} {idle : Bool} (h : exec (op.instr idle) s = .next t) :
    t.rxState = s.rxState := by
  obtain ⟨t', ht', frame⟩ := exec_instr op idle s
  obtain rfl : t' = t := by simpa [ht'] using h
  rw [frame]

theorem bringupEnd_rxState (h : bringupEnd s = .ok t) : t.rxState = s.rxState := by
  cases hb : s.buStage <;> simp only [bringupEnd, hb, Bool.false_eq_true, if_false, if_true] at h
  · split_ifs at h
    · split at h <;> cases h
      rfl
    · cases h; rfl
  · cases h; rfl

theorem exec_decodeFrame_rxState {i : Instr} (hi : decodeFrame s = .ok i) (h : exec i s = .next t) :
    t.rxState = s.rxState := by
  obtain ⟨begun, hbegun, hend⟩ := exec_decodeFrame_begun hi h
  have hb : begun.rxState = s.rxState := by
    rcases hbegun with ⟨shape, flags, rfl⟩ | ⟨shape, flags, x, y, w, k, rfl⟩ <;> rfl
  rcases hend with rfl | ⟨act, -, hrun⟩
  · exact hb
  · rcases runAction_next hrun with ⟨-, rfl⟩ | ⟨-, ops, m, -, rfl⟩ <;> exact hb

/-- Everything else a step can have done keeps `rx_state`, or is an expiry or a reset. -/
theorem Did.seekMagic (hd : Did s t) (hs : s.rxState ≠ .seekMagic) (ht : t.rxState = .seekMagic) : t.winCnt = 0 := by
  cases hd with
  | reset | field | seek => rfl
  | byte _ _ _ _ h => exact receiveByte_seekMagic h hs ht
  | idle | done => exact absurd ht hs
  | data => exact absurd ((sendData_rxState s.tick).symm.trans ht) hs
  | ack => exact absurd ((ackTransfer_rxState s.tick).symm.trans ht) hs
  | panel _ _ _ _ _ h => exact absurd ((exec_instr_rxState h).symm.trans ht) hs
  | bringup _ _ _ _ h => exact absurd ((bringupEnd_rxState h).symm.trans ht) hs
  | frame _ _ _ hi h => exact absurd ((exec_decodeFrame_rxState hi h).symm.trans ht) hs

/-! ### A step in ACK (R123) -/

theorem due_ack (hr : s.edge.rst = false) (hp : s.phase = .ack) :
    due s = .quiet (if s.edge.txReady then ackTransfer s.tick else s.tick) := by
  rw [due_of_not_rst hr]
  cases ht : s.edge.txReady <;> simp [duePhase, hp, ht]

theorem step_ack_ready (hr : s.edge.rst = false) (hp : s.phase = .ack) (ht : s.edge.txReady = true) {b : Byte}
    {rest : List Byte} (hq : s.ackQ = b :: rest) :
    step s = .next { s.tick with
      ackQ := rest, ackOut := b :: s.ackOut, phase := if rest = [] then .receive else s.phase } := by
  rw [step_of_quiet (due_ack hr hp), if_pos ht, ackTransfer_cons (s := s.tick) hq]
  rfl

theorem step_ack_held (hr : s.edge.rst = false) (hp : s.phase = .ack) (ht : s.edge.txReady = false) :
    step s = .next s.tick := by
  rw [step_of_quiet (due_ack hr hp), ht]
  rfl

end

/-- Settles O19: the frame has 12 bytes besides its payload. -/
theorem frameIsOneStepPerByte : Obligations.FrameIsOneStepPerByte := by
  unfold Obligations.FrameIsOneStepPerByte
  intro s len p crc he
  obtain ⟨n, hn, hrun⟩ := run_receiveBytes he (wireBytes len p crc)
  refine ⟨n, hn.trans ?_, hrun⟩
  simp [wireBytes, magic, bytes32]

/-- Settles O20: the byte is due, or the expiry that acts. -/
theorem receiveStep : Obligations.ReceiveStep := by
  unfold Obligations.ReceiveStep
  intro s hp hr
  refine ⟨fun b rest hv hq => step_of_due (due_byte hr hp hv hq), fun hno => ⟨fun hx he => ?_, fun hx he => ?_,
    fun hx he => ⟨_, step_expireSeek hr hp hno hx he, rfl⟩, fun hx he => ?_⟩⟩
  · exact ⟨_, step_of_quiet (s1 := raiseCond .transportTimeout s.tick) (by simp [due_no_byte hr hp hno, hx, he]), rfl⟩
  · exact step_of_quiet (by simp [due_no_byte hr hp hno, hx, he])
  · exact step_of_quiet (by simp [due_no_byte hr hp hno, hx, he])

/-- Settles O21, by everything a step can have done. -/
theorem enteringSeekEmptiesWindow : Obligations.EnteringSeekEmptiesWindow := by
  unfold Obligations.EnteringSeekEmptiesWindow
  exact fun s t h => (step_next h).seekMagic

/-- Settles O23: the head of `ack_q` leaves, or waits. -/
theorem ackByteTransfer : Obligations.AckByteTransfer := by
  unfold Obligations.AckByteTransfer
  intro s b rest hp hr hq
  refine ⟨fun ht hne => ?_, fun ht hnil => ?_, step_ack_held hr hp⟩
  · rw [step_ack_ready hr hp ht hq, if_neg hne]
    rfl
  · subst hnil
    exact step_ack_ready hr hp ht hq

end Sys2Proof.Machine

/-! Geometry of the panel (spec/42_geometry.md R140 to R153, R156): the per-byte transform bit by bit, rectangles, the split of a
column range, controller columns, and streams as products of columns and rows. -/

namespace Sys2Proof.Machine

/-! ### The per-byte transform (R140 to R142) -/

theorem getLsbD_shiftLeft_one {n i : Nat} (hi : i < 8) : (1#8 <<< n : Byte).getLsbD i = decide (n = i) := by
  rw [← BitVec.twoPow_eq, BitVec.getLsbD_twoPow]
  by_cases h : n = i <;> simp [h, hi]

/-- The loop of R140 after `n` of its steps. -/
theorem getLsbD_rev8_loop (b : Byte) (n : Nat) {i : Nat} (hi : i < 8) :
    ((List.range n).foldl (fun r j => if b.getLsbD (7 - j) then r ||| (1#8 <<< j) else r) (0#8 : Byte)).getLsbD i =
      (decide (i < n) && b.getLsbD (7 - i)) := by
  induction n with
  | zero => simp
  | succ n ih =>
    rw [List.range_succ, List.foldl_append, List.foldl_cons, List.foldl_nil,
      apply_ite fun r : Byte => r.getLsbD i, BitVec.getLsbD_or, ih, getLsbD_shiftLeft_one hi]
    rcases lt_trichotomy i n with h | rfl | h
    · simp [h, h.ne', Nat.lt_succ_of_lt h]
    · cases b.getLsbD (7 - i) <;> simp
    · simp [h.ne, h.not_gt, show ¬ i < n + 1 by omega]

theorem getLsbD_rev8 (b : Byte) {i : Nat} (hi : i < 8) : (rev8 b).getLsbD i = b.getLsbD (7 - i) := by
  rw [rev8, getLsbD_rev8_loop b 8 hi, decide_eq_true hi, Bool.true_and]

theorem getLsbD_inv8 (b : Byte) {i : Nat} (hi : i < 8) : (inv8 b).getLsbD i = !b.getLsbD i := by
  have hone : (0xFF#8 : Byte).getLsbD i = true := by
    rw [show (0xFF#8 : Byte) = BitVec.allOnes 8 from rfl, BitVec.getLsbD_allOnes, decide_eq_true hi]
  rw [inv8, BitVec.getLsbD_xor, hone, Bool.xor_true]

theorem rev8_rev8 (b : Byte) : rev8 (rev8 b) = b := BitVec.eq_of_getLsbD_eq fun i hi => by
  rw [getLsbD_rev8 _ hi, getLsbD_rev8 _ (by omega), show 7 - (7 - i) = i by omega]

theorem inv8_inv8 (b : Byte) : inv8 (inv8 b) = b := BitVec.eq_of_getLsbD_eq fun i hi => by
  rw [getLsbD_inv8 _ hi, getLsbD_inv8 _ hi, Bool.not_not]

theorem rev8_inv8 (b : Byte) : rev8 (inv8 b) = inv8 (rev8 b) := BitVec.eq_of_getLsbD_eq fun i hi => by
  rw [getLsbD_rev8 _ hi, getLsbD_inv8 _ (by omega), getLsbD_inv8 _ hi, getLsbD_rev8 _ hi]

/-- Settles O24: the laws of REV8 and INV8 hold bit by bit. -/
theorem transformLaws : Obligations.TransformLaws := by
  unfold Obligations.TransformLaws
  refine ⟨fun b => ⟨rev8_rev8 b, inv8_inv8 b, rev8_inv8 b⟩, fun b i hi => ⟨getLsbD_rev8 b hi, getLsbD_inv8 b hi⟩,
    fun c b => ?_⟩
  unfold xform
  cases c.revBits <;> cases c.invert <;> rfl

/-! ### Rectangles (R145 to R147) -/

theorem validate_eq_true_iff {c : Config} {x y w h : Half} : validate c x y w h = true ↔
    (w.toNat ≠ 0 ∧ h.toNat ≠ 0) ∧ (x.toNat < c.w ∧ y.toNat < c.h) ∧ x.toNat % 8 = 0 ∧ w.toNat % 8 = 0 := by
  unfold validate
  split_ifs with hdegenerate houtside hmisaligned
  · rw [false_iff]; omega
  · rw [false_iff]; omega
  · rw [false_iff]; omega
  · simp only [true_iff]; omega

/-- Settles O25, from what VALIDATE accepts. -/
theorem validateRejects : Obligations.ValidateRejects := by
  unfold Obligations.ValidateRejects
  intro c x y w h
  rw [← Bool.not_eq_true, validate_eq_true_iff]
  omega

/-- Settles O26: the panel's width is a multiple of 8 too, so an aligned corner inside it leaves a whole byte column. -/
theorem clampedRectangleInPanel : Obligations.ClampedRectangleInPanel := by
  unfold Obligations.ClampedRectangleInPanel
  intro c x y w h hc hv r g
  obtain ⟨hw8, -⟩ := Config.wf_geometry hc
  obtain ⟨hcols, hcx1, hrows, hry1, -⟩ := rectCols_clamp hc hv
  obtain ⟨⟨hw, hh⟩, ⟨hx, hy⟩, hx8, hwm8⟩ := validate_eq_true_iff.1 hv
  have halign : r.w % 8 = 0 := by
    show min w.toNat (c.w - x.toNat) % 8 = 0
    omega
  refine ⟨rfl, rfl, rfl, rfl, ?_, ?_, ?_, ?_, halign, rfl, rfl, rfl, rfl, hcols, Nat.le_sub_one_of_lt hcx1, hrows,
    Nat.le_sub_one_of_lt hry1⟩ <;> simp only [r, clamp] <;> omega

/-! ### The split of a column range (R148, R149) -/

/-- A column range meets a controller's span. -/
def meetsSpan (c : Config) (cx0 cx1 : Nat) (ctl : Ctl) : Bool :=
  decide (cx0 ≤ (ctlSpan c ctl).2) && decide ((ctlSpan c ctl).1 ≤ cx1)

/-- A column range clipped to a controller's span. -/
def clipToSpan (c : Config) (cx0 cx1 : Nat) (ctl : Ctl) : Part :=
  { ctl := ctl, lo := max cx0 (ctlSpan c ctl).1, hi := min cx1 (ctlSpan c ctl).2 }

theorem meetsSpan_iff {c : Config} {cx0 cx1 : Nat} {ctl : Ctl} :
    meetsSpan c cx0 cx1 ctl = true ↔ cx0 ≤ (ctlSpan c ctl).2 ∧ (ctlSpan c ctl).1 ≤ cx1 := by
  simp [meetsSpan]

section
variable {c : Config} {cx0 cx1 : Nat}

theorem meetsSpan_master : meetsSpan c cx0 cx1 .master = decide (cx0 ≤ c.ovl) := by
  show (decide (cx0 ≤ c.ovl) && decide (0 ≤ cx1)) = _
  simp

theorem meetsSpan_slave (h : cx0 < c.n) : meetsSpan c cx0 cx1 .slave = decide (c.ovl ≤ cx1) := by
  show (decide (cx0 ≤ c.n - 1) && decide (c.ovl ≤ cx1)) = _
  simp [Nat.le_sub_one_of_lt h]

theorem clipToSpan_master : clipToSpan c cx0 cx1 .master = { ctl := .master, lo := cx0, hi := min cx1 c.ovl } := by
  simp [clipToSpan, ctlSpan]

theorem clipToSpan_slave (h : cx1 < c.n) :
    clipToSpan c cx0 cx1 .slave = { ctl := .slave, lo := max cx0 c.ovl, hi := cx1 } := by
  simp [clipToSpan, ctlSpan, Nat.le_sub_one_of_lt h]

/-- SPLIT clips the range to the controllers it meets, master first (R149). -/
theorem splitCols_eq_map_clip (hle : cx0 ≤ cx1) (hn : cx1 < c.n) :
    splitCols c cx0 cx1 = ([Ctl.master, .slave].filter (meetsSpan c cx0 cx1)).map (clipToSpan c cx0 cx1) := by
  have hn0 : cx0 < c.n := Nat.lt_of_le_of_lt hle hn
  by_cases hmaster : cx0 ≤ c.ovl <;> by_cases hslave : c.ovl ≤ cx1 <;>
    simp [splitCols, meetsSpan_master, meetsSpan_slave hn0, clipToSpan_master, clipToSpan_slave hn, hmaster, hslave]

theorem mem_splitCols_iff (hle : cx0 ≤ cx1) (hn : cx1 < c.n) {p : Part} :
    p ∈ splitCols c cx0 cx1 ↔ meetsSpan c cx0 cx1 p.ctl = true ∧ p = clipToSpan c cx0 cx1 p.ctl := by
  simp only [splitCols_eq_map_clip hle hn, List.mem_map, List.mem_filter]
  constructor
  · rintro ⟨ctl, ⟨-, hmeets⟩, rfl⟩
    exact ⟨hmeets, rfl⟩
  · rintro ⟨hmeets, hp⟩
    exact ⟨p.ctl, ⟨by cases p.ctl <;> simp, hmeets⟩, hp.symm⟩

theorem splitCols_masterFirst (hle : cx0 ≤ cx1) (hn : cx1 < c.n) :
    (splitCols c cx0 cx1).Pairwise fun a b => a.ctl = .master ∧ b.ctl = .slave := by
  have horder : [Ctl.master, .slave].Pairwise fun a b => a = .master ∧ b = .slave := by simp
  rw [splitCols_eq_map_clip hle hn, List.pairwise_map]
  exact horder.filter _

theorem length_splitCols : (splitCols c cx0 cx1).length =
    (if cx0 ≤ c.ovl then 1 else 0) + (if c.ovl ≤ cx1 then 1 else 0) := by
  rw [splitCols, List.length_append, apply_ite List.length, apply_ite List.length]
  rfl

/-- The parts cover the range: the spans meet in the overlap column. -/
theorem splitCols_covers (hle : cx0 ≤ cx1) (hn : cx1 < c.n) {g : Nat} (h0 : cx0 ≤ g) (h1 : g ≤ cx1) :
    ∃ p ∈ splitCols c cx0 cx1, p.lo ≤ g ∧ g ≤ p.hi := by
  have part (ctl : Ctl) (hlo : (ctlSpan c ctl).1 ≤ g) (hhi : g ≤ (ctlSpan c ctl).2) :
      ∃ p ∈ splitCols c cx0 cx1, p.lo ≤ g ∧ g ≤ p.hi :=
    ⟨clipToSpan c cx0 cx1 ctl,
      (mem_splitCols_iff hle hn).2 ⟨meetsSpan_iff.2 ⟨h0.trans hhi, hlo.trans h1⟩, rfl⟩, max_le h0 hlo, le_min h1 hhi⟩
  rcases le_total g c.ovl with hg | hg
  · exact part .master (Nat.zero_le g) hg
  · exact part .slave hg (Nat.le_sub_one_of_lt (Nat.lt_of_le_of_lt h1 hn))

end

/-- Settles O27: SPLIT maps the clip over the controllers whose span the range meets. -/
theorem splitCoversColumns : Obligations.SplitCoversColumns := by
  unfold Obligations.SplitCoversColumns
  intro c cx0 cx1 _ hle hn parts
  have hmem (p : Part) := mem_splitCols_iff (p := p) hle hn
  have hcover (g : Nat) := splitCols_covers (g := g) hle hn
  refine ⟨rfl, rfl, splitCols_masterFirst hle hn, fun p hp => ?_, fun ctl => ?_, ?_, ?_, hcover⟩
  · have hclip := ((hmem p).1 hp).2
    exact ⟨congrArg Part.lo hclip, congrArg Part.hi hclip⟩
  · rw [← meetsSpan_iff]
    constructor
    · rintro ⟨p, hp, rfl⟩
      exact ((hmem p).1 hp).1
    · exact fun hmeets => ⟨clipToSpan c cx0 cx1 ctl, (hmem _).2 ⟨hmeets, rfl⟩, rfl⟩
  · obtain ⟨p, hp, -⟩ := hcover cx0 le_rfl hle
    exact List.ne_nil_of_mem hp
  · rw [length_splitCols]
    split_ifs <;> omega

/-! ### Controller columns (R150, R151) -/

/-- The global column at place `k` of a stream's columns (R153). -/
def streamColumn (ctl : Ctl) (glo ghi k : Nat) : Nat :=
  match ctl with
  | .master => glo + k
  | .slave => ghi - k

theorem colsUp_eq {ctl : Ctl} {glo ghi : Nat} (h : glo ≤ ghi) :
    colsUp ctl glo ghi = (List.range (ghi - glo + 1)).map (streamColumn ctl glo ghi) := by
  rw [← Nat.sub_add_comm h]
  cases ctl <;> rfl

theorem rowsDown_eq {rlo rhi : Nat} (h : rlo ≤ rhi) :
    rowsDown rlo rhi = (List.range (rhi - rlo + 1)).map (rhi - ·) := by
  rw [← Nat.sub_add_comm h, rowsDown]

/-- Controller columns ascend one by one along the stream: the slave's mirror turns its falling global columns round. -/
theorem ctlCol_streamColumn {c : Config} {ctl : Ctl} {glo ghi k : Nat} (hlo : (ctlSpan c ctl).1 ≤ glo)
    (hhi : ghi ≤ (ctlSpan c ctl).2) (hk : k ≤ ghi - glo) :
    ctlCol c ctl (streamColumn ctl glo ghi k) = ctlCol c ctl (streamColumn ctl glo ghi 0) + k := by
  cases ctl
  case master => rfl
  case slave =>
    simp only [ctlSpan, Config.ovl] at hlo hhi
    simp only [ctlCol, streamColumn, Config.so, Config.ovl]
    omega

/-- Settles O28: the addressing commands name the columns at the two ends of the stream. -/
theorem controllerColumnsAscend : Obligations.ControllerColumnsAscend := by
  unfold Obligations.ControllerColumnsAscend
  intro c ctl glo ghi rlo rhi hc hle hlo hhi column clo chi
  obtain ⟨-, hm, hmn, -⟩ := Config.wf_geometry hc
  have hclo : clo = ctlCol c ctl (streamColumn ctl glo ghi 0) := by cases ctl <;> rfl
  have hchi : chi = ctlCol c ctl (streamColumn ctl glo ghi (ghi - glo)) := by
    cases ctl
    case master => exact (Nat.add_sub_cancel' hle).symm
    case slave => exact congrArg (ctlCol c .slave) (Nat.sub_sub_self hle).symm
  have hstep (k : Nat) (hk : k ≤ ghi - glo) : ctlCol c ctl (streamColumn ctl glo ghi k) = clo + k :=
    hclo ▸ ctlCol_streamColumn hlo hhi hk
  have hlt : chi < c.n := by
    cases ctl
    case master => exact lt_of_le_of_lt hhi (by simp only [ctlSpan, Config.ovl]; omega)
    case slave => show (c.n - c.m) - (glo - (c.m - 1)) < c.n; omega
  refine ⟨fun g _ _ => ?_, hchi.trans (hstep _ le_rfl), hlt,
    fun hstd => hlt.trans_le (Config.wf_columns hc (.inl hstd)), ?_, ?_⟩
  · cases ctl <;> rfl
  · rw [colsUp_eq hle, List.map_map]
    exact List.map_congr_left fun k hk => hstep k (Nat.le_of_lt_succ (List.mem_range.1 hk))
  · cases ctl <;> rfl

/-! ### Products of lists -/

section
variable {α β : Type} {as : List α} {bs : List β}

/-- The place of a pair in a product. -/
theorem getElem?_product {i j : Nat} {a : α} {b : β} (ha : as[i]? = some a) (hb : bs[j]? = some b) :
    (as ×ˢ bs)[i * bs.length + j]? = some (a, b) := by
  have hj : j < bs.length := (List.getElem?_eq_some_iff.1 hb).1
  induction as generalizing i with
  | nil => simp at ha
  | cons a' as ih =>
    rw [List.product_cons]
    cases i with
    | zero =>
      obtain rfl : a' = a := by simpa using ha
      rw [Nat.zero_mul, Nat.zero_add, List.getElem?_append_left (by simpa using hj), List.getElem?_map, hb]
      rfl
    | succ i =>
      rw [show (i + 1) * bs.length + j = bs.length + (i * bs.length + j) by ring,
        List.getElem?_append_right (by simp), List.length_map, Nat.add_sub_cancel_left]
      exact ih (by simpa using ha)

theorem filter_fst_product (p : α → Bool) :
    (as ×ˢ bs).filter (fun ab => p ab.1) = as.filter p ×ˢ bs := by
  induction as with
  | nil => rfl
  | cons a as ih =>
    cases hp : p a <;> simp [List.filter_map, Function.comp_def, hp, ih]

theorem filter_snd_product (p : β → Bool) :
    (as ×ˢ bs).filter (fun ab => p ab.2) = as ×ˢ bs.filter p := by
  induction as with
  | nil => rfl
  | cons a as ih => simp [List.filter_map, Function.comp_def, ih]

theorem singleton_product (a : α) : [a] ×ˢ bs = bs.map fun b => (a, b) := List.append_nil _

theorem product_singleton (b : β) : as ×ˢ [b] = as.map fun a => (a, b) := List.map_eq_flatMap.symm

end

/-! ### Streams (R153, R156) -/

section
variable {c : Config} {ctl : Ctl} {glo ghi rlo rhi : Nat}

/-- With COL_MAJOR the column is the outer index. -/
theorem stream_colMajor (h : c.order = .colMajor) :
    stream c ctl glo ghi rlo rhi = (colsUp ctl glo ghi ×ˢ rowsDown rlo rhi).map Prod.swap := by
  rw [stream, h]
  show _ = ((colsUp ctl glo ghi).flatMap fun g => (rowsDown rlo rhi).map (Prod.mk g)).map Prod.swap
  simp [List.map_flatMap, Function.comp_def]

/-- With ROW_MAJOR the row is the outer index. -/
theorem stream_rowMajor (h : c.order = .rowMajor) :
    stream c ctl glo ghi rlo rhi = rowsDown rlo rhi ×ˢ colsUp ctl glo ghi := by
  rw [stream, h]
  rfl

theorem length_colsUp : (colsUp ctl glo ghi).length = ghi + 1 - glo := by
  rw [colsUp, List.length_map, List.length_range]

theorem length_rowsDown : (rowsDown rlo rhi).length = rhi + 1 - rlo := by
  rw [rowsDown, List.length_map, List.length_range]

theorem getElem?_colsUp (h : glo ≤ ghi) {k : Nat} (hk : k ≤ ghi - glo) :
    (colsUp ctl glo ghi)[k]? = some (streamColumn ctl glo ghi k) := by
  rw [colsUp_eq h, List.getElem?_map, List.getElem?_range (Nat.lt_succ_of_le hk)]
  rfl

theorem getElem?_rowsDown (h : rlo ≤ rhi) {j : Nat} (hj : j ≤ rhi - rlo) : (rowsDown rlo rhi)[j]? = some (rhi - j) := by
  rw [rowsDown_eq h, List.getElem?_map, List.getElem?_range (Nat.lt_succ_of_le hj)]
  rfl

theorem nodup_colsUp (h : glo ≤ ghi) : (colsUp ctl glo ghi).Nodup := by
  rw [colsUp_eq h]
  refine List.Nodup.map_on (fun k hk l hl hkl => ?_) List.nodup_range
  rw [List.mem_range] at hk hl
  cases ctl <;> simp only [streamColumn] at hkl <;> omega

theorem nodup_rowsDown (h : rlo ≤ rhi) : (rowsDown rlo rhi).Nodup := by
  rw [rowsDown_eq h]
  refine List.Nodup.map_on (fun k hk l hl hkl => ?_) List.nodup_range
  rw [List.mem_range] at hk hl
  omega

theorem length_stream :
    (stream c ctl glo ghi rlo rhi).length = (ghi + 1 - glo) * (rhi + 1 - rlo) := by
  cases h : c.order
  case colMajor => rw [stream_colMajor h, List.length_map, List.length_product, length_colsUp, length_rowsDown]
  case rowMajor => rw [stream_rowMajor h, List.length_product, length_colsUp, length_rowsDown, Nat.mul_comm]

theorem nodup_stream (hg : glo ≤ ghi) (hr : rlo ≤ rhi) : (stream c ctl glo ghi rlo rhi).Nodup := by
  cases h : c.order
  case colMajor =>
    rw [stream_colMajor h]
    exact ((nodup_colsUp hg).product (nodup_rowsDown hr)).map Prod.swap_injective
  case rowMajor =>
    rw [stream_rowMajor h]
    exact (nodup_rowsDown hr).product (nodup_colsUp hg)

theorem getElem?_stream_colMajor (h : c.order = .colMajor) (hg : glo ≤ ghi) (hr : rlo ≤ rhi) {k j : Nat}
    (hk : k ≤ ghi - glo) (hj : j ≤ rhi - rlo) :
    (stream c ctl glo ghi rlo rhi)[k * (rhi - rlo + 1) + j]? = some (rhi - j, streamColumn ctl glo ghi k) := by
  have hplace := getElem?_product (getElem?_colsUp (ctl := ctl) hg hk) (getElem?_rowsDown hr hj)
  rw [length_rowsDown, Nat.sub_add_comm hr] at hplace
  rw [stream_colMajor h, List.getElem?_map, hplace]
  rfl

theorem getElem?_stream_rowMajor (h : c.order = .rowMajor) (hg : glo ≤ ghi) (hr : rlo ≤ rhi) {k j : Nat}
    (hk : k ≤ ghi - glo) (hj : j ≤ rhi - rlo) :
    (stream c ctl glo ghi rlo rhi)[j * (ghi - glo + 1) + k]? = some (rhi - j, streamColumn ctl glo ghi k) := by
  have hplace := getElem?_product (getElem?_rowsDown hr hj) (getElem?_colsUp (ctl := ctl) hg hk)
  rw [length_colsUp, Nat.sub_add_comm hg] at hplace
  rw [stream_rowMajor h, hplace]

theorem filter_colsUp {g : Nat} (hlo : glo ≤ g) (hhi : g ≤ ghi) : (colsUp ctl glo ghi).filter (· == g) = [g] := by
  rw [List.filter_beq, List.count_eq_one_of_mem (nodup_colsUp (hlo.trans hhi)) (mem_colsUp.2 ⟨hlo, hhi⟩)]
  rfl

/-- In either order, one column of a stream is the rows from the last to the first. -/
theorem filter_stream_column {g : Nat} (hlo : glo ≤ g) (hhi : g ≤ ghi) :
    (stream c ctl glo ghi rlo rhi).filter (fun rg => rg.2 == g) = (rowsDown rlo rhi).map fun r => (r, g) := by
  cases h : c.order
  case colMajor =>
    rw [stream_colMajor h, List.filter_map]
    have hfst := filter_fst_product (as := colsUp ctl glo ghi) (bs := rowsDown rlo rhi) (· == g)
    rw [filter_colsUp hlo hhi, singleton_product] at hfst
    exact (congrArg (List.map Prod.swap) hfst).trans (List.map_map ..)
  case rowMajor =>
    rw [stream_rowMajor h, filter_snd_product (· == g), filter_colsUp hlo hhi, product_singleton]

end

/-- Settles O29: a stream is a product of columns and rows. -/
theorem streamListsRegionOnce : Obligations.StreamListsRegionOnce := by
  unfold Obligations.StreamListsRegionOnce
  intro c ctl glo ghi rlo rhi hg hr l column
  have hcolumn : column = streamColumn ctl glo ghi := by cases ctl <;> rfl
  refine ⟨?_, nodup_stream hg hr, fun r g => mem_stream.trans and_assoc, fun horder k j hk hj => ?_,
    fun horder k j hk hj => ?_⟩
  · rw [length_stream, Nat.sub_add_comm hg, Nat.sub_add_comm hr]
  · rw [hcolumn]
    exact getElem?_stream_colMajor horder hg hr hk hj
  · rw [hcolumn]
    exact getElem?_stream_rowMajor horder hg hr hk hj

/-- Settles O30: each controller's bytes for the overlap column are its rows, sampled from the last to the first. -/
theorem overlapColumnSentTwice : Obligations.OverlapColumnSentTwice := by
  unfold Obligations.OverlapColumnSentTwice
  intro c glo ghi rlo rhi smp hlo hhi _ bytes
  have hbytes (ctl : Ctl) {lo hi : Nat} (h0 : lo ≤ c.ovl) (h1 : c.ovl ≤ hi) :
      bytes ctl lo hi = (rowsDown rlo rhi).map fun r => smp r c.ovl := by
    show List.map _ (List.filter _ (stream c ctl lo hi rlo rhi)) = _
    rw [filter_stream_column h0 h1, List.map_map]
    rfl
  exact ⟨(hbytes .master hlo le_rfl).trans (hbytes .slave le_rfl hhi).symm, hbytes .master hlo le_rfl⟩

end Sys2Proof.Machine

/-! The refresh procedures (spec/43_refresh.md): how many plane data bytes they append, the busy-wait, the end of bring-up, and
the OLD bytes of a rectangle after a full refresh. -/

namespace Sys2Proof.Machine

/-! ### Plane data bytes (R182) -/

section
variable {c : Config}

theorem planeByteCount_append (as bs : List PanelOp) :
    planeByteCount (as ++ bs) = planeByteCount as + planeByteCount bs := by
  induction as with
  | nil => exact (Nat.zero_add _).symm
  | cons op ops ih =>
    cases op with
    | plane ctl p bytes => simp only [List.cons_append, planeByteCount, ih, Nat.add_assoc]
    | _ => exact ih

theorem planeByteCount_flatMap {α : Type} (f : α → List PanelOp) (l : List α) :
    planeByteCount (l.flatMap f) = (l.map fun a => planeByteCount (f a)).sum := by
  induction l with
  | nil => rfl
  | cons a as ih => rw [List.flatMap_cons, planeByteCount_append, ih, List.map_cons, List.sum_cons]

/-- A trigger carries no plane data, whether it is there or not. -/
theorem planeByteCount_trig (p : Prop) [Decidable p] (k : TrigKind) :
    planeByteCount (if p then [.trig k] else []) = 0 := by
  split_ifs <;> rfl

/-- How many columns a part has. -/
def Part.width (p : Part) : Nat := p.hi + 1 - p.lo

/-- A controller's share carries each byte of its region once in each plane. -/
theorem planeByteCount_shareOf (k : TrigKind) (new old : Nat → Nat → Byte) (p : Part) (rlo rhi : Nat) :
    planeByteCount (shareOf c k new old p rlo rhi) = 2 * p.width * (rhi + 1 - rlo) := by
  have haddr : planeByteCount (addr c p.ctl p.lo p.hi rlo rhi) = 0 := rfl
  have hplanes : planeByteCount [planeOf c p.ctl .new new p.lo p.hi rlo rhi, planeOf c p.ctl .old old p.lo p.hi rlo rhi] =
      p.width * (rhi + 1 - rlo) + p.width * (rhi + 1 - rlo) := by
    simp only [planeOf, planeByteCount, List.length_map, length_stream, Part.width, Nat.add_zero]
  rw [shareOf, planeByteCount_append, planeByteCount_append, haddr, hplanes, planeByteCount_trig]
  ring

/-- The parts of a column range have its columns, and the overlap column once more where the range covers it. -/
theorem sum_width_splitCols {cx0 cx1 : Nat} (hle : cx0 ≤ cx1) : ((splitCols c cx0 cx1).map Part.width).sum =
    cx1 - cx0 + 1 + if cx0 ≤ c.ovl ∧ c.ovl ≤ cx1 then 1 else 0 := by
  by_cases hmaster : cx0 ≤ c.ovl
  · by_cases hslave : c.ovl ≤ cx1
    · simp [splitCols, Part.width, hmaster, hslave]
      omega
    · simp [splitCols, Part.width, hmaster, hslave]
      omega
  · have hslave : c.ovl ≤ cx1 := by omega
    simp [splitCols, Part.width, hmaster, hslave]
    omega

theorem planeByteCount_fullOf (hc : c.wf = true) (f : Nat → Byte) :
    planeByteCount (fullOf c f) = 2 * (c.m + (c.n - c.m + 1)) * c.h := by
  obtain ⟨-, hm, hmn, hh, -⟩ := Config.wf_geometry hc
  have hmaster : Part.width { ctl := .master, lo := 0, hi := c.ovl } = c.m := by
    simp only [Part.width, Config.ovl]; omega
  have hslave : Part.width { ctl := .slave, lo := c.ovl, hi := c.n - 1 } = c.n - c.m + 1 := by
    simp only [Part.width, Config.ovl]; omega
  have hrows : c.h - 1 + 1 - 0 = c.h := by omega
  rw [fullOf, planeByteCount_append, planeByteCount_append, planeByteCount_shareOf, planeByteCount_shareOf,
    planeByteCount_trig, hmaster, hslave, hrows]
  ring

theorem planeByteCount_partialOf {g : Region} (hcols : g.cx0 ≤ g.cx1) (hrows : g.ry0 ≤ g.ry1)
    (new : Nat → Nat → Byte) (old : Nat → Byte) : planeByteCount (partialOf c g new old) =
      2 * (g.cx1 - g.cx0 + 1 + if g.cx0 ≤ c.ovl ∧ c.ovl ≤ g.cx1 then 1 else 0) * (g.ry1 - g.ry0 + 1) := by
  rw [partialOf, planeByteCount_append, planeByteCount_flatMap, planeByteCount_trig, ← sum_width_splitCols hcols,
    ← Nat.sub_add_comm hrows]
  simp only [planeByteCount_shareOf, Nat.add_zero]
  rw [List.sum_map_mul_right, List.sum_map_mul_left]

end

/-- Settles O31: a refresh's planes are those of its controllers' shares, whose widths add up to the region's and the overlap
column's. -/
theorem planeByteCounts : Obligations.PlaneByteCounts := by
  unfold Obligations.PlaneByteCounts
  exact fun c hc => ⟨planeByteCount_fullOf hc, fun g new old hcols _ hrows => planeByteCount_partialOf hcols hrows new old⟩

/-! ### The busy-wait (R170, R184) -/

/-- The first `k` samples keep the loop waiting: each is busy, and taken before the bound. `elapsed` is the time of sample 0. -/
def StillWaiting (t poll elapsed : Nat) (samples : List Bool) (k : Nat) : Prop :=
  ∀ j < k, samples[j]? = some true ∧ elapsed + j * poll < t

section
variable {t poll elapsed : Nat}

theorem stillWaiting_cons {busy : Bool} {rest : List Bool} {k : Nat} :
    StillWaiting t poll elapsed (busy :: rest) (k + 1) ↔
      (busy = true ∧ elapsed < t) ∧ StillWaiting t poll (elapsed + poll) rest k := by
  simp only [StillWaiting, Nat.forall_lt_succ_left, List.getElem?_cons_zero, List.getElem?_cons_succ, Option.some.injEq,
    Nat.zero_mul, Nat.add_zero, Nat.add_one_mul, Nat.add_assoc, Nat.add_comm poll]

theorem waitIdle_idle (rest : List Bool) : waitIdle t poll elapsed (false :: rest) = some true := rfl

theorem waitIdle_bound (h : t ≤ elapsed) (rest : List Bool) : waitIdle t poll elapsed (true :: rest) = some false := if_pos h

theorem waitIdle_busy (h : elapsed < t) (rest : List Bool) :
    waitIdle t poll elapsed (true :: rest) = waitIdle t poll (elapsed + poll) rest := if_neg (Nat.not_le.2 h)

/-- The loop has not ended exactly while every sample it took kept it waiting. -/
theorem waitIdle_eq_none_iff (samples : List Bool) :
    waitIdle t poll elapsed samples = none ↔ StillWaiting t poll elapsed samples samples.length := by
  induction samples generalizing elapsed with
  | nil => exact ⟨fun _ _ hj => absurd hj (Nat.not_lt_zero _), fun _ => rfl⟩
  | cons busy rest ih =>
    rw [List.length_cons, stillWaiting_cons, ← ih]
    cases busy with
    | false => simp [waitIdle_idle]
    | true =>
      rcases Nat.lt_or_ge elapsed t with h | h
      · simp [waitIdle_busy h, h]
      · simp [waitIdle_bound h, Nat.not_lt.2 h]

/-- The loop succeeds exactly on an idle sample that the samples before it left it waiting for. -/
theorem waitIdle_eq_true_iff (samples : List Bool) : waitIdle t poll elapsed samples = some true ↔
    ∃ k, samples[k]? = some false ∧ StillWaiting t poll elapsed samples k := by
  induction samples generalizing elapsed with
  | nil => simp [waitIdle]
  | cons busy rest ih =>
    have hfirst : StillWaiting t poll elapsed (busy :: rest) 0 := fun _ hj => absurd hj (Nat.not_lt_zero _)
    rw [← Nat.or_exists_add_one]
    simp only [stillWaiting_cons, List.getElem?_cons_zero, List.getElem?_cons_succ, hfirst, and_true]
    cases busy with
    | false => simp [waitIdle_idle]
    | true =>
      rcases Nat.lt_or_ge elapsed t with h | h
      · simp [waitIdle_busy h, h, ih]
      · simp [waitIdle_bound h, Nat.not_lt.2 h]

end

/-- The sample `t / poll + 1` is at the bound or after it, so the loop does not go on beyond it. -/
theorem waitIdle_ne_none {t poll : Nat} (hpoll : 0 < poll) {samples : List Bool} (h : t / poll + 2 ≤ samples.length) :
    waitIdle t poll 0 samples ≠ none := by
  rw [Ne, waitIdle_eq_none_iff]
  intro hwait
  have hbefore : 0 + (t / poll + 1) * poll < t := (hwait (t / poll + 1) h).2
  have hafter : t < poll * (t / poll + 1) := Nat.lt_mul_div_succ t hpoll
  rw [Nat.zero_add, Nat.mul_comm] at hbefore
  exact Nat.lt_asymm hbefore hafter

/-- Settles O47: samples that keep the loop waiting are taken before the bound, and an idle one ends it. -/
theorem busyWaitIsBounded : Obligations.BusyWaitIsBounded := by
  unfold Obligations.BusyWaitIsBounded
  intro t poll samples hpoll
  refine ⟨waitIdle_ne_none hpoll, ?_⟩
  rw [waitIdle_eq_true_iff]
  simp only [StillWaiting, Nat.zero_add]

/-! ### The reset pulse and the end of a wait (R170, R185) -/

theorem exec_rst (s : State) : exec .rst s = .next (resetPulse s) := rfl

theorem exec_wait (b : WaitBound) (idle : Bool) (s : State) : exec (.wait b idle) s = .next (endWait b idle s) := rfl

/-- Settles O45: the pulse is recorded, and so is the wait, whose failure raises HardwareTimeout. -/
theorem resetPulseAndWait : Obligations.ResetPulseAndWait := by
  unfold Obligations.ResetPulseAndWait
  intro s b
  exact ⟨exec_rst s, (exec_wait b true s).trans (by rw [endWait_idle]),
    (exec_wait b false s).trans (by rw [endWait_timeout])⟩

section
variable {s : State}

/-- A wait at the head of the panel queue ends, an idle sample before the bound (R240). -/
theorem step_wait_ends (hr : s.edge.rst = false) (ha : s.panelActive = true) (hd : s.dq = []) {b : WaitBound}
    {ops : List PanelOp} (hq : s.pq = .wait b :: ops) (h : s.edge.busyIdle = true ∨ s.edge.busyTimeout = true) :
    step s = .next (endWait b s.edge.busyIdle { s.tick with pq := ops }) :=
  step_of_due ((due_op hr ha hd hq).trans (dueOp_wait h))

/-- A wait with neither end offered goes on (R241). -/
theorem dueOp_wait_held {e : Edge} (hi : e.busyIdle = false) (ht : e.busyTimeout = false) (b : WaitBound)
    (ops : List PanelOp) : dueOp e (.wait b) ops s = .quiet s := by
  simp [dueOp, hi, ht]

end

/-- Settles O46: the wait ends as its sample says, or goes on. -/
theorem waitStep : Obligations.WaitStep := by
  unfold Obligations.WaitStep
  intro s b ops ha hr hd hq
  refine ⟨fun hi => ?_, fun hi ht => ?_, fun hi ht => ?_⟩
  · rw [step_wait_ends hr ha hd hq (.inl hi), hi, endWait_idle]
    rfl
  · rw [step_wait_ends hr ha hd hq (.inr ht), hi, endWait_timeout]
    rfl
  · exact step_of_quiet ((due_op hr ha hd hq).trans (dueOp_wait_held hi ht b ops))

/-! ### The end of bring-up (R172, R173) -/

section
variable {s t : State}

/-- When the queue of bring-up has drained, the step is the end of bring-up. -/
theorem step_bringupEnd (hr : s.edge.rst = false) (hp : s.phase = .bringup) (hq : s.pq = []) (hd : s.dq = [])
    (h : bringupEnd s.tick = .ok t) : step s = .next t := by
  refine step_of_quiet ?_
  rw [due_of_not_rst hr]
  simp [duePhase, hp, dueDrain, hq, hd, dueBringupEnd, h]

/-- After the initialisation sequence, when ready and COLD_CLEAR: the cold-start clear. -/
theorem bringupEnd_clear (hc : s.cfg.wf = true) (hb : s.buStage = false) (hw : s.waitFail = false)
    (hk : s.cfg.coldClear = true) : bringupEnd s = .ok { s with
      ready := true, buStage := true, waitFail := false, pq := fullOf s.cfg fun _ => s.cfg.white } := by
  rcases bringupEnd_cases hc with ⟨hb', -⟩ | ⟨-, -, -, e⟩ | ⟨-, hno, -⟩
  · simp [hb] at hb'
  · exact e
  · simp [hw, hk] at hno

/-- After the initialisation sequence, without a clear: the receive phase. -/
theorem bringupEnd_noClear (hc : s.cfg.wf = true) (hb : s.buStage = false)
    (hno : s.waitFail = true ∨ s.cfg.coldClear = false) :
    bringupEnd s = .ok { s with ready := !s.waitFail, phase := .receive } := by
  rcases bringupEnd_cases hc with ⟨hb', -⟩ | ⟨-, hw, hk, -⟩ | ⟨-, -, e⟩
  · simp [hb] at hb'
  · simp [hw, hk] at hno
  · exact e

/-- After the clear: the receive phase, with the record of a clear that failed. -/
theorem bringupEnd_cleared (hb : s.buStage = true) : bringupEnd s = .ok { s with
    lastResult := if s.waitFail then .hwTimeout else s.lastResult, phase := .receive } := by
  simp [bringupEnd, enterReceive, hb]

end

/-- Settles O53, by what the end of bring-up does before and after the cold-start clear. -/
theorem bringupEnds : Obligations.BringupEnds := by
  unfold Obligations.BringupEnds
  intro s hc hp hq hd hr
  have hstep {t : State} := step_bringupEnd (t := t) hr hp hq hd
  refine ⟨fun hb hw hk => hstep (bringupEnd_clear hc hb hw hk), fun hb hw hk => hstep ?_, fun hb hw => hstep ?_,
    fun hb hw => hstep ?_, fun hb hw => hstep ?_⟩
  · simpa [hw] using bringupEnd_noClear (s := s.tick) hc hb (.inr hk)
  · simpa [hw] using bringupEnd_noClear (s := s.tick) hc hb (.inl hw)
  · simpa [hw] using bringupEnd_cleared (s := s.tick) hb
  · simpa [hw] using bringupEnd_cleared (s := s.tick) hb

/-! ### A rectangle after a full refresh (R181, R214) -/

section
variable {s t : State}

/-- States with the same parameters and the same PREV show the same images. -/
theorem State.shows_congr (hc : t.cfg = s.cfg) (hp : t.prev = s.prev) {img : Nat → Byte} : t.shows img ↔ s.shows img := by
  simp only [State.shows, State.prevByte, hc, hp]

theorem State.shows_of_read {img : Nat → Byte}
    (h : ∀ i, i < s.cfg.fb → Mem.read (some s.cfg.white) s.prev i = some (img i)) : s.shows img :=
  fun i hi => (prevByte_of_lt hi).trans (h i hi)

theorem State.shows.read {img : Nat → Byte} (h : s.shows img) :
    ∀ i, i < s.cfg.fb → Mem.read (some s.cfg.white) s.prev i = some (img i) :=
  fun i hi => (prevByte_of_lt hi).symm.trans (h i hi)

/-- A store of an image keeps the canonical form of PREV, wherever its bytes lie. -/
theorem storeImage_memWf {c : Config} {f : Source} {m n : Mem} (h : storeImage c f m = .ok n)
    (hm : Mem.wf (some c.white) m = true) : Mem.wf (some c.white) n = true := by
  unfold storeImage at h
  split at h
  · cases h
  · rw [(writePrev_ok h).2]
    exact Mem.wf_putAll hm _

/-- FRM_FULL_FORCE clears and refreshes, and PREV becomes the image (R207). -/
theorem exec_frmFullForce {img : Nat → Byte} (hc : s.cfg.wf = true) (hm : Mem.wf (some s.cfg.white) s.prev = true)
    (hr : s.ready = true) (himg : s.holdsImage 1 img) (flags : Byte) :
    ∃ m, exec (.frmFullForce flags) s = .next { beginFrame .full flags s with
        pq := s.pq ++ (fullOf s.cfg (fun _ => s.cfg.white) ++ fullOf s.cfg img), prev := m } ∧
      Mem.wf (some s.cfg.white) m = true ∧ { s with prev := m }.shows img := by
  have hsource : ∀ i, i < s.cfg.fb → imageSource s 1 i = .ok (img i) := fun i hi => imageSource_of_holds himg hi
  obtain ⟨m, hstore, hread⟩ := storeImage_of_ok hm hsource
  have hact : actForceFrame (beginFrame .full flags s) =
      .ok (fullOf s.cfg (fun _ => s.cfg.white) ++ fullOf s.cfg img, m) :=
    renderThen_ok.2 ⟨clearThenFull_of_ok hc hsource, hstore⟩
  exact ⟨m, runAction_of_ok hr hact, storeImage_memWf hstore hm, State.shows_of_read hread⟩

/-- FRM_RECT_PARTIAL, for a rectangle that VALIDATE accepts, refreshes the clamped rectangle against PREV and patches it into
PREV (R208, R210). -/
theorem exec_frmRectPartial {x y w h : Half} {dat old : Nat → Byte} (hc : s.cfg.wf = true)
    (hm : Mem.wf (some s.cfg.white) s.prev = true) (hr : s.ready = true) (hold : s.shows old)
    (hdat : s.holdsRect (w.toNat / 8 * h.toNat) dat) (hv : validate s.cfg x y w h = true) (flags : Byte) :
    let g := rectCols (clamp s.cfg x y w h)
    ∃ m, exec (.frmRectPartial flags x y w h) s = .next { beginRect .rect flags x y w h s with
        pq := s.pq ++ partialOf s.cfg g (rectOf s.cfg g (w.toNat / 8) dat) old, prev := m } ∧
      Mem.wf (some s.cfg.white) m = true ∧ { s with prev := m }.shows (patchedOf s.cfg g (w.toNat / 8) dat old) := by
  intro g
  obtain ⟨-, hcx1, -, hry1, hcols, hrows⟩ := rectCols_clamp hc hv
  have hsource (j k : Nat) (hj : j ≤ g.ry1 - g.ry0) (hk : k ≤ g.cx1 - g.cx0) :
      rectSource s (j * (w.toNat / 8) + k) = .ok (dat (j * (w.toNat / 8) + k)) :=
    rectSource_of_holds hdat (rect_index_lt (hj.trans_lt hrows) (hk.trans_lt hcols))
  obtain ⟨m, hpatch, hform, hread⟩ := patchPrev_of_ok hm hcx1 hry1 hsource hold.read
  have hrender : partialRefresh s.cfg (clamp s.cfg x y w h) (rectSource s) (w.toNat / 8) (prevSource s.cfg s.prev) =
      .ok (partialOf s.cfg g (rectOf s.cfg g (w.toNat / 8) dat) old) :=
    partialRefresh_of_ok hcx1 hry1 hsource fun _ hi => prevSource_of_shows hold hi
  have hact : actPartialRect x y w h (beginRect .rect flags x y w h s) =
      .ok (partialOf s.cfg g (rectOf s.cfg g (w.toNat / 8) dat) old, m) :=
    (if_pos hv).trans (renderThen_ok.2 ⟨hrender, hpatch⟩)
  exact ⟨m, runAction_of_ok hr hact, hform, State.shows_of_read hread⟩

end

/-- Settles O40: the full refresh leaves PREV as `f0`, which is the PREV that the rectangle's refresh reads and patches. -/
theorem partialAfterFull : Obligations.PartialAfterFull := by
  unfold Obligations.PartialAfterFull
  intro s t u f0 dat flags flags2 x y w h g hc hm hr himg ht hcfg hprev hur hdat hv hg
  obtain ⟨m, hexec, hform, hshows⟩ := exec_frmFullForce hc hm hr himg flags
  cases hexec.symm.trans ht
  have hucfg : u.cfg = s.cfg := hcfg
  have huprev : u.prev = m := hprev
  have hushows : u.shows f0 := (State.shows_congr (s := { s with prev := m }) hucfg huprev).2 hshows
  have huform : Mem.wf (some u.cfg.white) u.prev = true := by rw [hucfg, huprev]; exact hform
  obtain ⟨m', hpart, -, hpatched⟩ := exec_frmRectPartial (hucfg ▸ hc) huform hur hushows hdat hv flags2
  subst hg
  exact ⟨_, hpart, rfl, (State.shows_congr rfl rfl).1 hpatched⟩

end Sys2Proof.Machine

/-! The update orchestrator (spec/44_orchestrator.md R204 to R214): what the dispatch of each frame kind appends and leaves in
PREV, when it renders nothing, and the result at its end. -/

namespace Sys2Proof.Machine

section
variable {s t : State}

/-! ### The four actions (R206 to R210) -/

/-- R206: the partial refresh of the whole panel against PREV as it was, and PREV takes the image. -/
theorem actPartialFrame_of_holds {off : Nat} {img old : Nat → Byte} (hc : s.cfg.wf = true)
    (hm : Mem.wf (some s.cfg.white) s.prev = true) (hold : s.shows old) (himg : s.holdsImage off img) :
    ∃ m, actPartialFrame off s = .ok (partialOf s.cfg { cx0 := 0, cx1 := s.cfg.n - 1, ry0 := 0, ry1 := s.cfg.h - 1 }
        (imgOf s.cfg img) old, m) ∧
      { s with prev := m }.shows img := by
  have hsource : ∀ i, i < s.cfg.fb → imageSource s off i = .ok (img i) := fun i hi => imageSource_of_holds himg hi
  obtain ⟨m, hstore, hread⟩ := storeImage_of_ok hm hsource
  have hrender := fullFramePartial_of_ok hc hsource fun i hi => prevSource_of_shows hold hi
  exact ⟨m, renderThen_ok.2 ⟨hrender, hstore⟩, State.shows_of_read hread⟩

/-- A clear and the full refresh of a PREV that holds an image (R209). -/
theorem clearThenFull_prevSource {m : Mem} {img : Nat → Byte} (hc : s.cfg.wf = true) (h : { s with prev := m }.shows img) :
    clearThenFull s.cfg (prevSource s.cfg m) = .ok (fullOf s.cfg (fun _ => s.cfg.white) ++ fullOf s.cfg img) :=
  clearThenFull_of_ok hc fun _ hi => prevSource_of_shows (s := { s with prev := m }) h hi

/-- R210: the patch of a rectangle that VALIDATE accepts replaces the clamped extent of PREV by the rectangle's data. -/
theorem patchPrev_of_holds {x y w h : Half} {dat old : Nat → Byte} (hc : s.cfg.wf = true)
    (hm : Mem.wf (some s.cfg.white) s.prev = true) (hold : s.shows old)
    (hdat : s.holdsRect (w.toNat / 8 * h.toNat) dat) (hv : validate s.cfg x y w h = true) :
    ∃ m, patchPrev s.cfg (clamp s.cfg x y w h) (rectSource s) (w.toNat / 8) s.prev = .ok m ∧
      { s with prev := m }.shows (patchedOf s.cfg (rectCols (clamp s.cfg x y w h)) (w.toNat / 8) dat old) := by
  obtain ⟨-, hcx1, -, hry1, hcols, hrows⟩ := rectCols_clamp hc hv
  obtain ⟨m, hpatch, -, hread⟩ := patchPrev_of_ok hm hcx1 hry1 (fun j k hj hk =>
    rectSource_of_holds hdat (rect_index_lt (hj.trans_lt hrows) (hk.trans_lt hcols))) hold.read
  exact ⟨m, hpatch, State.shows_of_read hread⟩

/-- R209 for a rectangle that VALIDATE accepts: PREV is patched first, and the patched PREV is refreshed. -/
theorem actForceRect_of_holds {x y w h : Half} {dat old : Nat → Byte} (hc : s.cfg.wf = true)
    (hm : Mem.wf (some s.cfg.white) s.prev = true) (hold : s.shows old)
    (hdat : s.holdsRect (w.toNat / 8 * h.toNat) dat) (hv : validate s.cfg x y w h = true) :
    let patched := patchedOf s.cfg (rectCols (clamp s.cfg x y w h)) (w.toNat / 8) dat old
    ∃ m, actForceRect x y w h s = .ok (fullOf s.cfg (fun _ => s.cfg.white) ++ fullOf s.cfg patched, m) ∧
      { s with prev := m }.shows patched := by
  intro patched
  obtain ⟨m, hpatch, hshows⟩ := patchPrev_of_holds hc hm hold hdat hv
  have hrender := clearThenFull_prevSource hc hshows
  exact ⟨m, by simp [actForceRect, hv, hpatch, renderThen, hrender, patched], hshows⟩

/-- R208 for a rectangle that VALIDATE rejects (E6). -/
theorem actPartialRect_rejected {x y w h : Half} (hv : validate s.cfg x y w h = false) :
    actPartialRect x y w h s = .ok ([], s.prev) := by
  simp [actPartialRect, hv]

/-- R209 for a rectangle that VALIDATE rejects (E6): the clear and the refresh of PREV still run. -/
theorem actForceRect_rejected {x y w h : Half} {old : Nat → Byte} (hc : s.cfg.wf = true) (hold : s.shows old)
    (hv : validate s.cfg x y w h = false) :
    actForceRect x y w h s = .ok (fullOf s.cfg (fun _ => s.cfg.white) ++ fullOf s.cfg old, s.prev) := by
  simp [actForceRect, hv, renderThen, clearThenFull_prevSource (m := s.prev) hc hold]

/-! ### Forced frames in two states (R180, R214) -/

/-- States with the same parameters that show one image read the same at every address. -/
theorem State.shows.prevByte_eq {img : Nat → Byte} (hs : s.shows img) (ht : t.shows img) (hc : s.cfg = t.cfg) (a : Nat) :
    s.prevByte a = t.prevByte a := by
  by_cases ha : a < s.cfg.fb
  · rw [hs a ha, ht a (hc ▸ ha)]
  · have ha' : ¬ a < t.cfg.fb := hc ▸ ha
    simp [State.prevByte, ha, ha']

/-- The OLD plane of a controller's share is the stream of its OLD bytes (R174, R176): the addressing and the triggers are no
planes. -/
theorem oldPlane_mem_shareOf {c : Config} {k : TrigKind} {new old : Nat → Nat → Byte} {p : Part} {rlo rhi : Nat} {ctl : Ctl}
    {bytes : List Byte} (h : .plane ctl .old bytes ∈ shareOf c k new old p rlo rhi) :
    bytes = (stream c p.ctl p.lo p.hi rlo rhi).map fun rg => old rg.1 rg.2 := by
  simp only [shareOf, List.mem_append] at h
  rcases h with (h | h) | h
  · simp [addr] at h
  · simp only [planeOf, List.mem_cons, PanelOp.plane.injEq, reduceCtorEq, List.not_mem_nil] at h
    tauto
  · split_ifs at h <;> simp at h

/-- Every OLD-plane byte of a full refresh is 00 (R174). -/
theorem oldPlane_fullOf {c : Config} {f : Nat → Byte} {ctl : Ctl} {bytes : List Byte}
    (h : .plane ctl .old bytes ∈ fullOf c f) : ∀ b ∈ bytes, b = 0x00#8 := by
  simp only [fullOf, List.mem_append] at h
  rcases h with (h | h) | h
  · simp [oldPlane_mem_shareOf h]
  · simp [oldPlane_mem_shareOf h]
  · split_ifs at h <;> simp at h

/-! ### The result of a dispatch (R211, R239) -/

/-- The two reasons to reject a frame: its shape (E7), or its geometry (E6). -/
theorem State.rejects_iff : (decide (s.fShape = .badshape) || s.geometryInvalid) = true ↔
    s.fShape = .badshape ∨ (s.fShape = .rect ∧ validate s.cfg s.fX s.fY s.fW s.fH = false) := by
  simp [State.geometryInvalid]

theorem State.result_notReady (hr : s.ready = false) : s.result = .notReady := by
  simp [State.result, hr]

theorem State.result_rejected (hr : s.ready = true)
    (h : s.fShape = .badshape ∨ (s.fShape = .rect ∧ validate s.cfg s.fX s.fY s.fW s.fH = false)) :
    s.result = .rejected := by
  rw [← State.rejects_iff] at h
  simp only [State.result, hr, h, Bool.not_true, Bool.false_eq_true, if_false, if_true]

theorem State.result_accepted (hr : s.ready = true)
    (h : ¬ (s.fShape = .badshape ∨ (s.fShape = .rect ∧ validate s.cfg s.fX s.fY s.fW s.fH = false))) :
    s.result = if s.waitFail then .hwTimeout else .ok := by
  rw [← State.rejects_iff] at h
  simp only [State.result, hr, h, Bool.not_true, Bool.false_eq_true, if_false]

/-- When the operations of a dispatch have all been performed, the step writes the result and sends `4F 4B` (R212, R213). -/
theorem step_dispatchEnd (hr : s.edge.rst = false) (hp : s.phase = .dispatch) (hg : s.draining = true) (hq : s.pq = [])
    (hd : s.dq = []) : step s = .next { s.tick with
      lastResult := s.result, draining := false, ackQ := ackOkBytes, phase := .ack } :=
  step_of_due (due_done hr hp hg hq hd)

end

/-- Settles O37: a bad shape only writes its descriptor. -/
theorem badShapeDispatch : Obligations.BadShapeDispatch := by
  unfold Obligations.BadShapeDispatch
  exact fun _ _ _ _ _ _ _ => ⟨rfl, rfl⟩

/-- Settles O38: behind the readiness gate, an action changes nothing in the state that the decode has written. -/
theorem notReadyDispatch : Obligations.NotReadyDispatch := by
  unfold Obligations.NotReadyDispatch
  intro s flags x y w h hr
  have hframe (act : Action) (shape : FShape) (f : Byte) :
      runAction act (beginFrame shape f s) = .next (beginFrame shape f s) := runAction_notReady hr
  have hrect (act : Action) :
      runAction act (beginRect .rect flags x y w h s) = .next (beginRect .rect flags x y w h s) := runAction_notReady hr
  exact ⟨hframe (actPartialFrame 0) _ _, hframe (actPartialFrame 1) _ _, hframe actForceFrame _ _,
    hrect (actPartialRect x y w h), hrect (actForceRect x y w h)⟩

/-- Settles O41: the result is the first that holds, and the acknowledgement does not depend on it. -/
theorem dispatchEndsWithResult : Obligations.DispatchEndsWithResult := by
  unfold Obligations.DispatchEndsWithResult
  intro s hp hg hq hd hr
  refine ⟨s.result, step_dispatchEnd hr hp hg hq hd, State.result_notReady, State.result_rejected,
    fun hready h => ⟨fun hw => ?_, fun hw => ?_⟩⟩
  · simp [State.result_accepted hready h, hw]
  · simp [State.result_accepted hready h, hw]

/-- Settles O32: both frame kinds run one action, with the image at offset 0 or 1 of the payload. -/
theorem partialFrameDispatch : Obligations.PartialFrameDispatch := by
  unfold Obligations.PartialFrameDispatch
  intro s img old hc hm hr hold
  refine ⟨fun himg => ?_, fun himg flags => ?_⟩
  · obtain ⟨m, hact, hshows⟩ := actPartialFrame_of_holds (s := beginFrame .legacy 0 s) hc hm hold himg
    exact ⟨_, runAction_of_ok hr hact, rfl, hshows, rfl⟩
  · obtain ⟨m, hact, hshows⟩ := actPartialFrame_of_holds (s := beginFrame .full flags s) hc hm hold himg
    exact ⟨_, runAction_of_ok hr hact, rfl, hshows, rfl⟩

/-- Settles O33, by what the execution of FRM_FULL_FORCE answers. -/
theorem forcedFrameDispatch : Obligations.ForcedFrameDispatch := by
  unfold Obligations.ForcedFrameDispatch
  intro s img flags hc hm hr himg
  obtain ⟨m, hexec, -, hshows⟩ := exec_frmFullForce hc hm hr himg flags
  exact ⟨_, hexec, rfl, hshows, rfl⟩

/-- Settles O34, by what the execution of FRM_RECT_PARTIAL answers. -/
theorem partialRectDispatch : Obligations.PartialRectDispatch := by
  unfold Obligations.PartialRectDispatch
  rintro s flags x y w h dat old g hc hm hr hold hdat hv rfl
  obtain ⟨m, hexec, -, hshows⟩ := exec_frmRectPartial hc hm hr hold hdat hv flags
  exact ⟨_, hexec, rfl, hshows, rfl⟩

/-- Settles O35: the full refresh samples the PREV that the patch has left. -/
theorem forcedRectDispatch : Obligations.ForcedRectDispatch := by
  unfold Obligations.ForcedRectDispatch
  rintro s flags x y w h dat old g hc hm hr hold hdat hv rfl
  obtain ⟨m, hact, hshows⟩ := actForceRect_of_holds (s := beginRect .rect flags x y w h s) hc hm hold hdat hv
  exact ⟨_, runAction_of_ok hr hact, rfl, hshows, rfl⟩

/-- Settles O36: neither action patches; the forced one refreshes PREV as it was. -/
theorem invalidRectangleDispatch : Obligations.InvalidRectangleDispatch := by
  unfold Obligations.InvalidRectangleDispatch
  intro s flags x y w h old hc hr hold hv
  have hpartial : exec (.frmRectPartial flags x y w h) s =
      .next { beginRect .rect flags x y w h s with pq := s.pq ++ [] } :=
    runAction_of_ok hr (actPartialRect_rejected (s := beginRect .rect flags x y w h s) hv)
  rw [List.append_nil] at hpartial
  exact ⟨hpartial, runAction_of_ok hr (actForceRect_rejected (s := beginRect .rect flags x y w h s) hc hold hv)⟩

/-- Settles O39: the operations are a function of the parameters and the image, their OLD planes are zero, and both states show
the image afterwards. -/
theorem forcedFrameIsIdempotent : Obligations.ForcedFrameIsIdempotent := by
  unfold Obligations.ForcedFrameIsIdempotent
  intro s1 s2 img f1 f2 hcfg hc hm1 hm2 hr1 hr2 himg1 himg2
  obtain ⟨m1, hexec1, -, hshows1⟩ := exec_frmFullForce hc hm1 hr1 himg1 f1
  obtain ⟨m2, hexec2, -, hshows2⟩ := exec_frmFullForce (hcfg ▸ hc) (hcfg ▸ hm2) hr2 himg2 f2
  rw [← hcfg] at hexec2
  refine ⟨_, _, _, hexec1, hexec2, rfl, rfl, hshows1.prevByte_eq hshows2 hcfg, fun ctl bytes hops => ?_⟩
  exact (List.mem_append.1 hops).elim oldPlane_fullOf oldPlane_fullOf

end Sys2Proof.Machine

/-! No condition is fatal (spec/60_exceptions.md R230, spec/20_memory.md R63, R71): in a state that meets the invariant every
operation finds the bytes and the counts it looks at, and the dispatch of a captured frame queues one of three lists of panel
operations. -/

namespace Sys2Proof.Machine

section
variable {s t : State}

/-! ### What is there to be read -/

/-- PREV always shows an image: WHITE where it lists nothing (R37). -/
theorem State.shows_prev (s : State) : s.shows fun i => (Mem.find s.prev i).getD s.cfg.white :=
  State.shows_of_read fun i _ => by
    rw [Mem.read]
    cases Mem.find s.prev i <;> rfl

theorem State.written.rxByte {n i : Nat} (hw : s.written n) (hi : i < n) : s.rxByte i = some ((s.rxByte i).getD 0#8) := by
  obtain ⟨b, hb⟩ := Option.isSome_iff_exists.1 (hw i hi)
  rw [hb, Option.getD_some]

/-- A captured payload holds an image wherever the image fits. -/
theorem State.written.holdsImage {off : Nat} (hw : s.written s.frmLen.toNat) (hfit : off + s.cfg.fb ≤ s.frmLen.toNat) :
    s.holdsImage off fun i => (s.rxByte (off + i)).getD 0#8 :=
  ⟨hfit, fun _ hi => hw.rxByte (by omega)⟩

/-- A captured payload holds the data of a rectangle that its length leaves room for. -/
theorem State.written.holdsRect {n : Nat} (hw : s.written s.frmLen.toNat) (hfit : 9 + n ≤ s.frmLen.toNat) :
    s.holdsRect n fun i => (s.rxByte (9 + i)).getD 0#8 :=
  ⟨hfit, fun _ hi => hw.rxByte (by omega)⟩

/-! ### Host bytes and the end of bring-up -/

/-- Every host byte finds a window count that R23 allows, and room in RXBUF. -/
theorem receiveByte_isOk (h : s.Inv) (b : Byte) : ∃ t, receiveByte b s = .ok t := by
  unfold receiveByte
  cases hx : s.rxState <;> dsimp only
  case seekMagic => exact seekByte_isOk h.window
  case readPayload =>
    obtain ⟨ha, hlt, -⟩ := h.payload hx
    exact payByte_isOk (hlt.trans_le (acceptLen_bounds h.params ha).2)
  all_goals split_ifs <;> exact ⟨_, rfl⟩

theorem bringupEnd_isOk (hc : s.cfg.wf = true) : ∃ t, bringupEnd s = .ok t := by
  rcases bringupEnd_cases hc with ⟨-, e⟩ | ⟨-, -, -, e⟩ | ⟨-, -, e⟩ <;> exact ⟨_, e⟩

/-! ### The dispatch of a frame (R204 to R209) -/

/-- The panel operations that a dispatch queues: none, a partial refresh of a region of the panel, or a clear and a full
refresh. -/
inductive FrameOps (c : Config) : List PanelOp → Prop
  | none : FrameOps c []
  | refreshed {g : Region} {new : Nat → Nat → Byte} {old : Nat → Byte} (hcols : g.cx0 ≤ g.cx1) (hx : g.cx1 < c.n)
      (hrows : g.ry0 ≤ g.ry1) (hy : g.ry1 < c.h) : FrameOps c (partialOf c g new old)
  | forced {img : Nat → Byte} : FrameOps c (fullOf c (fun _ => c.white) ++ fullOf c img)

/-- The whole panel is a region of it. -/
theorem FrameOps.wholePanel {c : Config} (hc : c.wf = true) (new : Nat → Nat → Byte) (old : Nat → Byte) :
    FrameOps c (partialOf c { cx0 := 0, cx1 := c.n - 1, ry0 := 0, ry1 := c.h - 1 } new old) := by
  obtain ⟨-, hm, hmn, hh, -⟩ := Config.wf_geometry hc
  exact .refreshed (Nat.zero_le _) (Nat.sub_lt (by omega) one_pos) (Nat.zero_le _) (Nat.sub_lt (by omega) one_pos)

/-- `t` is `s` with the dispatch begun: its operations are queued, and they drain in the same phase. -/
def FrameQueued (s t : State) : Prop :=
  ∃ ops, FrameOps s.cfg ops ∧
    t = { t with cfg := s.cfg, phase := s.phase, dq := s.dq, env := s.env, draining := true, pq := s.pq ++ ops }

/-- A dispatch that renders nothing leaves the queue as it was. -/
theorem FrameQueued.of_same_queue
    (h : t = { t with cfg := s.cfg, phase := s.phase, dq := s.dq, env := s.env, draining := true, pq := s.pq }) :
    FrameQueued s t := ⟨[], .none, by rwa [List.append_nil]⟩

/-- While not ready, a frame of any shape queues nothing (R205). -/
theorem exec_frame_notReady {i : Instr} (hr : s.ready = false) (hi : decodeFrame s = .ok i) :
    ∃ t, exec i s = .next t ∧ FrameQueued s t := by
  rcases decodeFrame_kind hi with ⟨rfl, -⟩ | ⟨f, rfl | rfl, -⟩ | ⟨f, x, y, w, k, rfl | rfl, -⟩ | ⟨len, hdr, rfl⟩
  case inr.inr.inr => cases hdr <;> exact ⟨_, rfl, .of_same_queue rfl⟩
  all_goals exact ⟨_, runAction_notReady hr, .of_same_queue rfl⟩

/-- R206, for an image at any offset of a captured payload. -/
theorem runAction_partialFrame {off : Nat} (h : s.Inv) (hr : s.ready = true) (hw : s.written s.frmLen.toNat)
    (hfit : off + s.cfg.fb ≤ s.frmLen.toNat) (shape : FShape) (flags : Byte) :
    ∃ t, runAction (actPartialFrame off) (beginFrame shape flags s) = .next t ∧ FrameQueued s t := by
  obtain ⟨m, hact, -⟩ := actPartialFrame_of_holds (s := beginFrame shape flags s) h.params h.prevForm s.shows_prev
    (hw.holdsImage hfit)
  exact ⟨_, runAction_of_ok hr hact, _, .wholePanel h.params _ _, rfl⟩

/-- R208, for a captured rectangle, whether VALIDATE accepts it or not. -/
theorem exec_frmRectPartial_queues {x y w k : Half} (h : s.Inv) (hr : s.ready = true) (hw : s.written s.frmLen.toNat)
    (hfit : 9 + w.toNat / 8 * k.toNat ≤ s.frmLen.toNat) (flags : Byte) :
    ∃ t, exec (.frmRectPartial flags x y w k) s = .next t ∧ FrameQueued s t := by
  cases hv : validate s.cfg x y w k with
  | true =>
    obtain ⟨m, hexec, -⟩ := exec_frmRectPartial h.params h.prevForm hr s.shows_prev (hw.holdsRect hfit) hv
      flags
    obtain ⟨hcols, hx, hrows, hy, -⟩ := rectCols_clamp h.params hv
    exact ⟨_, hexec, _, .refreshed hcols hx hrows hy, rfl⟩
  | false => exact ⟨_, runAction_of_ok hr (actPartialRect_rejected hv), _, .none, rfl⟩

/-- R209, for a captured rectangle, whether VALIDATE accepts it or not. -/
theorem exec_frmRectForce_queues {x y w k : Half} (h : s.Inv) (hr : s.ready = true) (hw : s.written s.frmLen.toNat)
    (hfit : 9 + w.toNat / 8 * k.toNat ≤ s.frmLen.toNat) (flags : Byte) :
    ∃ t, exec (.frmRectForce flags x y w k) s = .next t ∧ FrameQueued s t := by
  cases hv : validate s.cfg x y w k with
  | true =>
    obtain ⟨m, hact, -⟩ := actForceRect_of_holds (s := beginRect .rect flags x y w k s) h.params h.prevForm s.shows_prev
      (hw.holdsRect hfit) hv
    exact ⟨_, runAction_of_ok hr hact, _, .forced, rfl⟩
  | false =>
    exact ⟨_, runAction_of_ok hr (actForceRect_rejected (s := beginRect .rect flags x y w k s) h.params s.shows_prev hv), _,
      .forced, rfl⟩

/-- The dispatch of a captured frame goes on, and queues its operations. -/
theorem exec_frame_queues {i : Instr} (h : s.Inv) (hw : s.written s.frmLen.toNat) (hi : decodeFrame s = .ok i) :
    ∃ t, exec i s = .next t ∧ FrameQueued s t := by
  cases hr : s.ready with
  | false => exact exec_frame_notReady hr hi
  | true =>
    rcases decodeFrame_kind hi with ⟨rfl, hl⟩ | ⟨f, rfl | rfl, hl⟩ | ⟨f, x, y, w, k, rfl | rfl, hl⟩ | ⟨len, hdr, rfl⟩
    · exact runAction_partialFrame h hr hw (by omega) .legacy 0x00#8
    · exact runAction_partialFrame h hr hw (by omega) .full f
    · obtain ⟨m, hexec, -⟩ := exec_frmFullForce h.params h.prevForm hr (hw.holdsImage (by omega)) f
      exact ⟨_, hexec, _, .forced, rfl⟩
    · exact exec_frmRectPartial_queues h hr hw hl.ge f
    · exact exec_frmRectForce_queues h hr hw hl.ge f
    · cases hdr <;> exact ⟨_, rfl, .of_same_queue rfl⟩

end

/-- Settles O59: none of the places where a step can stop is met. -/
theorem invariantStatesNeverStop : Obligations.InvariantStatesNeverStop := by
  unfold Obligations.InvariantStatesNeverStop
  intro s h
  have htick : s.tick.Inv := State.tick_inv h
  by_contra hstop
  rcases step_not_next (not_exists.1 hstop) with ⟨-, b, rest, -, hbyte⟩ | ⟨-, hend⟩ | ⟨hp, hg, hframe⟩
  · obtain ⟨t, ht⟩ := receiveByte_isOk (hostQ_inv htick rest) b
    exact hbyte t ht
  · obtain ⟨t, ht⟩ := bringupEnd_isOk htick.params
    exact hend t ht
  · obtain ⟨ha, hw⟩ := htick.frame hp hg
    rcases hframe with hdecode | ⟨i, hi, hexec⟩
    · obtain ⟨i, hi⟩ := decodeFrame_isOk htick.params ha hw
      exact hdecode i hi
    · obtain ⟨t, ht, -⟩ := exec_frame_queues htick hw hi
      exact hexec t ht

end Sys2Proof.Machine

/-! The return to RECEIVE in SEEK_MAGIC (spec/60_exceptions.md R245): what is left to do before it is a number of the state
(`State.rank`), and every step in a fair environment makes it smaller. -/

namespace Sys2Proof.Machine

/-! ### What a panel queue takes to drain (R185) -/

/-- The steps a queue item takes at most: one for the item and one for each data byte; a trigger in the split form is a step of
its own, in front of an `OP_UPDATE` with its byte, an `OP_ACTIVATE` and a wait (log 9). -/
def PanelOp.steps (t : Encodings) : PanelOp → Nat
  | .trig _ => 5
  | op => 1 + (op.dataBytes t).length

/-- The steps that the items of a panel queue take at most. -/
def queueSteps (t : Encodings) (ops : List PanelOp) : Nat := (ops.map (PanelOp.steps t)).sum

/-- The steps until the panel queue has drained. -/
def State.drainSteps (s : State) : Nat := s.dq.length + queueSteps s.cfg.encs s.pq

@[simp] theorem queueSteps_nil (t : Encodings) : queueSteps t [] = 0 := rfl

@[simp] theorem queueSteps_cons (t : Encodings) (op : PanelOp) (ops : List PanelOp) :
    queueSteps t (op :: ops) = op.steps t + queueSteps t ops := by
  simp [queueSteps]

theorem queueSteps_append (t : Encodings) (as bs : List PanelOp) :
    queueSteps t (as ++ bs) = queueSteps t as + queueSteps t bs := by
  simp [queueSteps]

section
variable {s t : State}

theorem trigger_drainSteps (k : TrigKind) (s : State) : (trigger k s).drainSteps < s.drainSteps + 5 := by
  cases hf : s.cfg.trigForm with
  | split =>
    simp only [trigger_split hf, State.drainSteps, List.cons_append, List.nil_append, queueSteps_cons, PanelOp.steps,
      PanelOp.dataBytes, List.length_singleton, List.length_nil]
    omega
  | single f p =>
    simp only [trigger_single hf, State.drainSteps, queueSteps_cons, PanelOp.steps, PanelOp.dataBytes, List.length_nil]
    omega

theorem sendCommand_drainSteps (o : Opcode) (data : List Byte) (s : State) :
    (sendCommand o data s).drainSteps = data.length + s.drainSteps := by
  simp [sendCommand, State.drainSteps, Nat.add_assoc]

/-- The instruction of a queue item leaves fewer steps than the item takes. -/
theorem exec_instr_drainSteps {op : PanelOp} {idle : Bool} (h : exec (op.instr idle) s = .next t) :
    t.drainSteps < s.drainSteps + op.steps s.cfg.encs := by
  cases op with
  | trig k => cases k <;> cases h <;> exact trigger_drainSteps _ s
  | wait b => cases idle <;> cases h <;> exact Nat.lt_succ_self _
  | rst => cases h; exact Nat.lt_succ_self _
  | swreset | border | tempsrc | update | activate =>
    cases h
    rw [sendCommand_drainSteps]
    simp only [PanelOp.steps, PanelOp.dataBytes]; omega
  | plane c p bytes =>
    cases c <;> cases p <;> cases h <;> rw [sendCommand_drainSteps] <;>
      simp only [PanelOp.steps, PanelOp.dataBytes] <;> omega
  | entry c | colwin c | rowwin c | colcur c | rowcur c =>
    cases c <;> cases h <;> rw [sendCommand_drainSteps] <;>
      simp only [PanelOp.steps, PanelOp.dataBytes] <;> omega

end

/-! ### What a frame can take (R206 to R209) -/

/-- How many bytes an `ENC_*` function sends at most: four where it is R152's, and no more than all its rows hold where it is a
deployment's table. -/
def encMaxBytes {α : Type} : Enc α → Nat
  | .std => 4
  | .table rows => (rows.map fun row => row.2.length).sum

theorem length_tableBytes_le {α : Type} [DecidableEq α] (rows : List (α × List Byte)) (a : α) :
    (tableBytes rows a).length ≤ (rows.map fun row => row.2.length).sum := by
  induction rows with
  | nil => exact le_rfl
  | cons row rows ih =>
    rw [tableBytes, List.map_cons, List.sum_cons]
    split_ifs
    · exact Nat.le_add_right _ _
    · exact ih.trans (Nat.le_add_left _ _)

theorem length_encValue_le {α : Type} [DecidableEq α] {default : α → List Byte} (hd : ∀ a, (default a).length ≤ 4)
    (e : Enc α) (a : α) : (encValue default e a).length ≤ encMaxBytes e := by
  cases e with
  | std => exact hd a
  | table rows => exact length_tableBytes_le rows a

/-- The steps that a queue item takes at most besides those for plane bytes. -/
def itemSteps (t : Encodings) : Nat :=
  5 + encMaxBytes t.colwin + encMaxBytes t.rowwin + encMaxBytes t.colcur + encMaxBytes t.rowcur

theorem PanelOp.steps_le (t : Encodings) (op : PanelOp) : op.steps t ≤ planeByteCount [op] + itemSteps t := by
  cases op with
  | colwin c a b =>
    have : (encColwin t a b).length ≤ encMaxBytes t.colwin := length_encValue_le (fun _ => by simp) _ _
    simp only [PanelOp.steps, PanelOp.dataBytes, itemSteps]; omega
  | rowwin c a b =>
    have : (encRowwin t a b).length ≤ encMaxBytes t.rowwin := length_encValue_le (fun _ => by simp [bytes16]) _ _
    simp only [PanelOp.steps, PanelOp.dataBytes, itemSteps]; omega
  | colcur c a =>
    have : (encColcur t a).length ≤ encMaxBytes t.colcur := length_encValue_le (fun _ => by simp) _ _
    simp only [PanelOp.steps, PanelOp.dataBytes, itemSteps]; omega
  | rowcur c a =>
    have : (encRowcur t a).length ≤ encMaxBytes t.rowcur := length_encValue_le (fun _ => by simp [bytes16]) _ _
    simp only [PanelOp.steps, PanelOp.dataBytes, itemSteps]; omega
  | _ =>
    simp only [PanelOp.steps, PanelOp.dataBytes, planeByteCount, itemSteps, List.length_singleton, List.length_nil]
    omega

theorem queueSteps_le (t : Encodings) (ops : List PanelOp) :
    queueSteps t ops ≤ planeByteCount ops + ops.length * itemSteps t := by
  induction ops with
  | nil => exact Nat.zero_le _
  | cons op ops ih =>
    have hop := op.steps_le t
    have hcount : planeByteCount (op :: ops) = planeByteCount [op] + planeByteCount ops := planeByteCount_append [op] ops
    rw [queueSteps_cons, hcount, List.length_cons, Nat.succ_mul]
    omega

/-- The steps that the operations of one refresh take at most: two planes, of the panel's columns with the overlap column twice,
in 17 items. -/
def refreshSteps (c : Config) : Nat := 2 * (c.n + 1) * c.h + 17 * itemSteps c.encs

section
variable {c : Config}

theorem length_shareOf_le (k : TrigKind) (new old : Nat → Nat → Byte) (p : Part) (rlo rhi : Nat) :
    (shareOf c k new old p rlo rhi).length ≤ 8 := by
  unfold shareOf
  split_ifs <;> simp [addr]

theorem length_fullOf_le (img : Nat → Byte) : (fullOf c img).length ≤ 17 := by
  have hshare := length_shareOf_le (c := c) .full (imgOf c img) (fun _ _ => 0x00#8)
  have hm := hshare { ctl := .master, lo := 0, hi := c.ovl } 0 (c.h - 1)
  have hs := hshare { ctl := .slave, lo := c.ovl, hi := c.n - 1 } 0 (c.h - 1)
  unfold fullOf
  rw [List.length_append, List.length_append]
  split_ifs <;> simp only [List.length_singleton, List.length_nil] <;> omega

theorem length_partialOf_le (g : Region) (new : Nat → Nat → Byte) (old : Nat → Byte) :
    (partialOf c g new old).length ≤ 17 := by
  have hshare := fun p => length_shareOf_le (c := c) .part new (imgOf c old) p g.ry0 g.ry1
  have hparts : ((splitCols c g.cx0 g.cx1).flatMap fun p => shareOf c .part new (imgOf c old) p g.ry0 g.ry1).length ≤ 16 := by
    have hm := hshare { ctl := .master, lo := g.cx0, hi := min g.cx1 c.ovl }
    have hs := hshare { ctl := .slave, lo := max g.cx0 c.ovl, hi := g.cx1 }
    unfold splitCols
    split_ifs <;> simp <;> omega
  unfold partialOf
  rw [List.length_append]
  split_ifs <;> simp only [List.length_singleton, List.length_nil] <;> omega

theorem queueSteps_fullOf_le (hc : c.wf = true) (img : Nat → Byte) : queueSteps c.encs (fullOf c img) ≤ refreshSteps c := by
  obtain ⟨-, -, hmn, -⟩ := Config.wf_geometry hc
  have hcols : c.m + (c.n - c.m + 1) = c.n + 1 := by omega
  calc queueSteps c.encs (fullOf c img)
      ≤ 2 * (c.n + 1) * c.h + (fullOf c img).length * itemSteps c.encs := by
        rw [← hcols, ← planeByteCount_fullOf hc img]; exact queueSteps_le _ _
    _ ≤ refreshSteps c := Nat.add_le_add_left (Nat.mul_le_mul_right _ (length_fullOf_le img)) _

theorem queueSteps_partialOf_le {g : Region} (hcols : g.cx0 ≤ g.cx1) (hx : g.cx1 < c.n) (hrows : g.ry0 ≤ g.ry1)
    (hy : g.ry1 < c.h) (new : Nat → Nat → Byte) (old : Nat → Byte) :
    queueSteps c.encs (partialOf c g new old) ≤ refreshSteps c := by
  have hplanes : planeByteCount (partialOf c g new old) ≤ 2 * (c.n + 1) * c.h := by
    rw [planeByteCount_partialOf hcols hrows]
    refine Nat.mul_le_mul (Nat.mul_le_mul_left 2 ?_) (by omega)
    split_ifs <;> omega
  exact (queueSteps_le _ _).trans
    (Nat.add_le_add hplanes (Nat.mul_le_mul_right _ (length_partialOf_le g new old)))

/-- A dispatch queues at most two refreshes. -/
theorem FrameOps.queueSteps_le {ops : List PanelOp} (hc : c.wf = true) (h : FrameOps c ops) :
    queueSteps c.encs ops ≤ 2 * refreshSteps c := by
  cases h with
  | none => exact Nat.zero_le _
  | refreshed hcols hx hrows hy =>
    exact (queueSteps_partialOf_le hcols hx hrows hy _ _).trans (Nat.le_mul_of_pos_left _ two_pos)
  | forced =>
    rw [queueSteps_append, Nat.two_mul]
    exact Nat.add_le_add (queueSteps_fullOf_le hc _) (queueSteps_fullOf_le hc _)

end

/-! ### What is left to do -/

/-- The ready state of R245. -/
def State.AtRest (s : State) : Prop := s.phase = .receive ∧ s.rxState = .seekMagic

/-- The steps from the end of the panel queue to the ready state, at most: the longest way leads through a frame, its operations
and an acknowledgement of 3 bytes (R31). -/
def State.stepsAfterDrain (s : State) : Nat :=
  match s.phase with
  | .bringup => if s.buStage then 1 else refreshSteps s.cfg + 2
  | .receive => if s.rxState = .seekMagic then 0 else s.hostQ.length + (2 * refreshSteps s.cfg + 7)
  | .dispatch => if s.draining then 5 else 2 * refreshSteps s.cfg + 6
  | .ack => s.ackQ.length + 1

/-- The steps to the ready state, at most. -/
def State.rank (s : State) : Nat := s.drainSteps + s.stepsAfterDrain

section
variable {s t : State}

theorem State.stepsAfterDrain_congr
    (h : t = { s with env := t.env, pq := t.pq, dq := t.dq, panelOut := t.panelOut, waitFail := t.waitFail }) :
    t.stepsAfterDrain = s.stepsAfterDrain := by
  rw [h]; rfl

theorem State.stepsAfterDrain_initialising (hp : s.phase = .bringup) (hb : s.buStage = false) :
    s.stepsAfterDrain = refreshSteps s.cfg + 2 := by simp [State.stepsAfterDrain, hp, hb]

theorem State.stepsAfterDrain_clearing (hp : s.phase = .bringup) (hb : s.buStage = true) : s.stepsAfterDrain = 1 := by
  simp [State.stepsAfterDrain, hp, hb]

theorem State.stepsAfterDrain_atRest (h : s.AtRest) : s.stepsAfterDrain = 0 := by
  obtain ⟨hp, hx⟩ := h
  simp [State.stepsAfterDrain, hp, hx]

theorem State.stepsAfterDrain_field (hp : s.phase = .receive) (hx : s.rxState ≠ .seekMagic) :
    s.stepsAfterDrain = s.hostQ.length + (2 * refreshSteps s.cfg + 7) := by simp [State.stepsAfterDrain, hp, hx]

theorem State.stepsAfterDrain_frame (hp : s.phase = .dispatch) (hg : s.draining = false) :
    s.stepsAfterDrain = 2 * refreshSteps s.cfg + 6 := by simp [State.stepsAfterDrain, hp, hg]

theorem State.stepsAfterDrain_draining (hp : s.phase = .dispatch) (hg : s.draining = true) : s.stepsAfterDrain = 5 := by
  simp [State.stepsAfterDrain, hp, hg]

theorem State.stepsAfterDrain_ack (hp : s.phase = .ack) : s.stepsAfterDrain = s.ackQ.length + 1 := by
  simp [State.stepsAfterDrain, hp]

/-- Only the ready state has nothing to come after its panel queue. -/
theorem State.stepsAfterDrain_pos (h : ¬ s.AtRest) : 0 < s.stepsAfterDrain := by
  cases hp : s.phase with
  | bringup =>
    cases hb : s.buStage with
    | false => rw [State.stepsAfterDrain_initialising hp hb]; omega
    | true => rw [State.stepsAfterDrain_clearing hp hb]; omega
  | receive => rw [State.stepsAfterDrain_field hp fun hx => h ⟨hp, hx⟩]; omega
  | dispatch =>
    cases hg : s.draining with
    | false => rw [State.stepsAfterDrain_frame hp hg]; omega
    | true => rw [State.stepsAfterDrain_draining hp hg]; omega
  | ack => rw [State.stepsAfterDrain_ack hp]; omega

theorem State.rank_pos (h : ¬ s.AtRest) : 0 < s.rank := Nat.add_pos_right _ (State.stepsAfterDrain_pos h)

theorem State.rank_of_queue {ops : List PanelOp} (hq : s.pq = ops) (hd : s.dq = []) :
    s.rank = queueSteps s.cfg.encs ops + s.stepsAfterDrain := by
  simp [State.rank, State.drainSteps, hq, hd]

theorem State.rank_of_drained (hq : s.pq = []) (hd : s.dq = []) : s.rank = s.stepsAfterDrain := by
  simp [State.rank_of_queue hq hd]

theorem State.AtRest.rank (h : s.AtRest) (hq : s.pq = []) (hd : s.dq = []) : s.rank = 0 :=
  (State.rank_of_drained hq hd).trans (State.stepsAfterDrain_atRest h)

/-! ### Every fair step makes it smaller -/

theorem Edge.fair_iff {e : Edge} : e.fair = true ↔ e.rst = false ∧ e.txReady = true ∧ e.pnlReady = true ∧
    e.expireField = true ∧ (e.busyIdle = true ∨ e.busyTimeout = true) := by
  simp [Edge.fair, and_assoc]

/-- A fair step makes what is left to do smaller. -/
def Progress (s : State) : Prop := ∃ t, step s = .next t ∧ t.rank < s.rank

/-- Where transfers complete and waits end, the head of the panel queue runs. -/
theorem dueOp_of_fair {e : Edge} (hf : e.fair = true) (op : PanelOp) (ops : List PanelOp) :
    ∃ idle, dueOp e op ops s = .instr (op.instr idle) { s with pq := ops } := by
  obtain ⟨-, -, hready, -, hend⟩ := Edge.fair_iff.1 hf
  by_cases hw : ∃ b, op = .wait b
  · obtain ⟨b, rfl⟩ := hw
    exact ⟨_, dueOp_wait hend⟩
  · exact ⟨true, dueOp_ready (not_exists.1 hw) (.inl hready)⟩

/-- A panel queue that is not empty drains. -/
theorem progress_drain (hf : s.edge.fair = true) (ha : s.panelActive = true) (hne : s.dq ≠ [] ∨ s.pq ≠ []) :
    Progress s := by
  obtain ⟨hr, -, hready, -⟩ := Edge.fair_iff.1 hf
  cases hd : s.dq with
  | cons d ds =>
    refine ⟨_, step_data_ready hr ha hd hready, ?_⟩
    refine Nat.add_lt_add_of_lt_of_le ?_ (State.stepsAfterDrain_congr rfl).le
    simp [State.drainSteps, hd]
  | nil =>
    obtain ⟨op, ops, hq⟩ := List.exists_cons_of_ne_nil (hne.resolve_left (not_not_intro hd))
    obtain ⟨idle, hop⟩ := dueOp_of_fair (s := s.tick) hf op ops
    obtain ⟨t, hexec, hframe⟩ := exec_instr op idle { s.tick with pq := ops }
    have hdue : due s = .instr (op.instr idle) { s.tick with pq := ops } := (due_op hr ha hd hq).trans hop
    refine ⟨t, (step_of_due hdue).trans hexec, Nat.add_lt_add_of_lt_of_le ?_ (State.stepsAfterDrain_congr ?_).le⟩
    · have hlt := exec_instr_drainSteps hexec
      simp only [State.drainSteps, hq, queueSteps_cons, State.tick_cfg, State.tick_dq] at hlt ⊢
      omega
    · rw [hframe]; rfl

/-- Bring-up ends in the ready state, or the cold-start clear is queued (R173). -/
theorem progress_bringupEnd (h : s.Inv) (hf : s.edge.fair = true) (hp : s.phase = .bringup) (hq : s.pq = [])
    (hd : s.dq = []) : Progress s := by
  obtain ⟨hr, -⟩ := Edge.fair_iff.1 hf
  obtain ⟨hseek, -⟩ := h.seek (by simp [hp])
  have hpos : 0 < s.rank := State.rank_pos fun hrest => absurd hrest.1 (by simp [hp])
  rcases bringupEnd_cases (s := s.tick) h.params with ⟨-, e⟩ | ⟨hb, -, -, e⟩ | ⟨-, -, e⟩ <;>
    refine ⟨_, step_bringupEnd hr hp hq hd e, ?_⟩
  · exact lt_of_eq_of_lt (State.AtRest.rank ⟨rfl, hseek⟩ hq hd) hpos
  · have hclear := queueSteps_fullOf_le h.params fun _ => s.cfg.white
    refine lt_of_eq_of_lt (State.rank_of_queue rfl hd) ?_
    rw [State.rank_of_drained hq hd, State.stepsAfterDrain_initialising hp hb]
    exact Nat.add_lt_add_of_le_of_lt hclear (lt_of_eq_of_lt (State.stepsAfterDrain_clearing hp rfl) one_lt_two)
  · exact lt_of_eq_of_lt (State.AtRest.rank ⟨rfl, hseek⟩ hq hd) hpos

/-- The phases in which a host byte can leave the block. -/
theorem receiveByte_phase {b : Byte} (hp : s.phase = .receive) (h : receiveByte b s = .ok t) :
    t.phase = .receive ∨ (t.phase = .dispatch ∧ t.draining = false) ∨ t.phase = .ack := by
  unfold receiveByte at h
  cases hx : s.rxState <;> simp only [hx] at h
  case seekMagic =>
    rcases seekByte_ok h with ⟨-, rfl⟩ | ⟨-, rfl⟩ | ⟨-, rfl⟩ | ⟨-, -, rfl⟩ | ⟨-, -, rfl⟩ <;> exact .inl hp
  case readLength =>
    split_ifs at h <;> cases h
    · rcases lenLastByte_cases b s with ⟨-, e⟩ | ⟨-, e⟩ <;> rw [e]
      · exact .inl hp
      · exact .inr (.inr rfl)
    · exact .inl hp
  case readPayload => obtain ⟨-, ⟨-, rfl⟩ | ⟨-, rfl⟩⟩ := payByte_ok h <;> exact .inl hp
  case readCrc =>
    split_ifs at h <;> cases h
    · rcases crcLastByte_cases b s with ⟨-, e⟩ | ⟨-, e⟩ <;> rw [e]
      · exact .inr (.inl ⟨rfl, rfl⟩)
      · exact .inr (.inr rfl)
    · exact .inl hp

/-- Whatever a host byte does, less is left to do than any frame takes and the bytes still upstream. -/
theorem receiveByte_rank {b : Byte} (h : s.Inv) (hp : s.phase = .receive) (ht : receiveByte b s = .ok t) :
    t.rank ≤ s.hostQ.length + (2 * refreshSteps s.cfg + 7) := by
  have hinv : t.Inv := receiveByte_inv h hp ht
  obtain ⟨-, hhost⟩ := receiveByte_env_hostQ ht
  have hcfg : t.cfg = s.cfg := by
    rcases receiveByte_owned ht with e | ⟨-, e⟩ <;> exact congrArg OwnedRegs.cfg e
  have hdrained : t.pq = [] ∧ t.dq = [] := hinv.queue (by
    rcases receiveByte_phase hp ht with hp | ⟨hp, hg⟩ | hp <;> simp [State.panelActive, *])
  have hack := hinv.ackLength
  rw [State.rank_of_drained hdrained.1 hdrained.2, ← hhost, ← hcfg]
  rcases receiveByte_phase hp ht with hp | ⟨hp, hg⟩ | hp
  · by_cases hx : t.rxState = .seekMagic
    · rw [State.stepsAfterDrain_atRest ⟨hp, hx⟩]; omega
    · rw [State.stepsAfterDrain_field hp hx]
  · rw [State.stepsAfterDrain_frame hp hg]; omega
  · rw [State.stepsAfterDrain_ack hp]; omega

/-- A field takes the next host byte, or expires (R120). -/
theorem progress_receive (h : s.Inv) (hf : s.edge.fair = true) (hp : s.phase = .receive) (hx : s.rxState ≠ .seekMagic) :
    Progress s := by
  obtain ⟨hr, -, -, hexpire, -⟩ := Edge.fair_iff.1 hf
  obtain ⟨hq, hd⟩ := h.queue (State.panelActive_of_receive hp)
  by_cases hno : s.edge.rxValid = false ∨ s.hostQ = []
  · have hstep : step s = .next (raiseCond .transportTimeout s.tick) :=
      step_of_quiet (by simp [due_no_byte hr hp hno, hx, hexpire])
    have hrest : (raiseCond .transportTimeout s.tick).AtRest := ⟨hp, rfl⟩
    exact ⟨_, hstep, (hrest.rank hq hd).trans_lt (State.rank_pos fun hrest => hx hrest.2)⟩
  · obtain ⟨hv, hne⟩ := not_or.1 hno
    obtain ⟨b, rest, hhost⟩ := List.exists_cons_of_ne_nil hne
    have hinv : { s.tick with hostQ := rest }.Inv := hostQ_inv (State.tick_inv h) rest
    obtain ⟨t, ht⟩ := receiveByte_isOk hinv b
    have hrank := receiveByte_rank hinv hp ht
    refine ⟨t, (step_byte hr hp (Bool.eq_true_of_not_eq_false hv) hhost).trans (congrArg outcome ht), ?_⟩
    rw [State.rank_of_drained hq hd, State.stepsAfterDrain_field hp hx, hhost, List.length_cons]
    exact hrank.trans_lt (Nat.add_lt_add_right (Nat.lt_succ_self _) _)

/-- An emitted frame is dispatched (R213). -/
theorem progress_dispatch (h : s.Inv) (hf : s.edge.fair = true) (hp : s.phase = .dispatch) (hg : s.draining = false) :
    Progress s := by
  obtain ⟨hr, -⟩ := Edge.fair_iff.1 hf
  obtain ⟨hq, hd⟩ := h.queue (by simp [State.panelActive, hp, hg])
  obtain ⟨ha, hw⟩ := h.frame hp hg
  obtain ⟨i, hi⟩ := decodeFrame_isOk h.params ha hw
  obtain ⟨t, hexec, ops, hops, hframe⟩ := exec_frame_queues (State.tick_inv h) hw hi
  have hpq : t.pq = ops := (congrArg State.pq hframe).trans (congrArg (· ++ ops) hq)
  have hdq : t.dq = [] := (congrArg State.dq hframe).trans hd
  have hcfg : t.cfg = s.cfg := (congrArg State.cfg hframe).trans rfl
  have hphase : t.phase = .dispatch := (congrArg State.phase hframe).trans hp
  have hsteps : queueSteps s.cfg.encs ops ≤ 2 * refreshSteps s.cfg := hops.queueSteps_le h.params
  refine ⟨t, (step_of_due (due_frame hr hp hg hi)).trans hexec, ?_⟩
  rw [State.rank_of_queue hpq hdq, hcfg, State.stepsAfterDrain_draining hphase (congrArg State.draining hframe),
    State.rank_of_drained hq hd, State.stepsAfterDrain_frame hp hg]
  omega

/-- A dispatch whose queue has drained is acknowledged (R212). -/
theorem progress_dispatchEnd (hf : s.edge.fair = true) (hp : s.phase = .dispatch) (hg : s.draining = true) (hq : s.pq = [])
    (hd : s.dq = []) : Progress s := by
  obtain ⟨hr, -⟩ := Edge.fair_iff.1 hf
  refine ⟨_, step_dispatchEnd hr hp hg hq hd, lt_of_eq_of_lt (State.rank_of_drained hq hd) ?_⟩
  rw [State.stepsAfterDrain_ack rfl, State.rank_of_drained hq hd, State.stepsAfterDrain_draining hp hg]
  exact show 3 < 5 by omega

/-- The host takes the next acknowledgement byte, and the last one ends ACK (R123). -/
theorem progress_ack (h : s.Inv) (hf : s.edge.fair = true) (hp : s.phase = .ack) : Progress s := by
  obtain ⟨hr, htx, -⟩ := Edge.fair_iff.1 hf
  obtain ⟨hq, hd⟩ := h.queue (State.panelActive_of_ack hp)
  obtain ⟨hseek, -⟩ := h.seek (by simp [hp])
  obtain ⟨b, rest, hack⟩ := List.exists_cons_of_ne_nil (h.ack.1 hp)
  refine ⟨_, step_ack_ready hr hp htx hack, lt_of_eq_of_lt (State.rank_of_drained hq hd) ?_⟩
  rw [State.rank_of_drained hq hd, State.stepsAfterDrain_ack hp, hack]
  cases rest with
  | nil => exact lt_of_eq_of_lt (State.stepsAfterDrain_atRest ⟨rfl, hseek⟩) (Nat.succ_pos _)
  | cons b' rest => exact lt_of_eq_of_lt (State.stepsAfterDrain_ack hp) (Nat.lt_succ_self _)

/-- Until the ready state is reached, every fair step makes what is left to do smaller. -/
theorem State.Inv.progress (h : s.Inv) (hf : s.edge.fair = true) (hn : ¬ s.AtRest) : Progress s := by
  by_cases hqueue : s.dq = [] ∧ s.pq = []
  · obtain ⟨hd, hq⟩ := hqueue
    cases hp : s.phase with
    | bringup => exact progress_bringupEnd h hf hp hq hd
    | receive => exact progress_receive h hf hp fun hx => hn ⟨hp, hx⟩
    | dispatch =>
      cases hg : s.draining with
      | false => exact progress_dispatch h hf hp hg
      | true => exact progress_dispatchEnd hf hp hg hq hd
    | ack => exact progress_ack h hf hp
  · have ha : s.panelActive = true := by
      by_contra hna
      obtain ⟨hq, hd⟩ := h.queue (Bool.eq_false_iff.2 hna)
      exact hqueue ⟨hd, hq⟩
    exact progress_drain hf ha (not_and_or.1 hqueue)

/-! ### A run -/

/-- Every step takes one record of the inputs (log 6). -/
theorem Did.env (h : s.Inv) (hd : Did s t) : t.env = s.env.tail := by
  cases hd with
  | reset | idle | field | seek | done => rfl
  | byte _ _ _ _ ht => exact (receiveByte_env_hostQ ht).1
  | data _ _ hd => rw [sendData_cons (s := s.tick) hd]; rfl
  | @panel _ _ _ op ops _ idle _ ht =>
    obtain ⟨t', ht', hframe⟩ := exec_instr op idle { s.tick with pq := ops }
    cases ht'.symm.trans ht
    rw [hframe]; rfl
  | bringup _ _ _ _ ht =>
    rcases bringupEnd_cases (s := s.tick) h.params with ⟨-, e⟩ | ⟨-, -, -, e⟩ | ⟨-, -, e⟩ <;> cases e.symm.trans ht <;> rfl
  | frame _ _ _ hi ht =>
    obtain ⟨begun, hbegun, hend⟩ := exec_decodeFrame_begun hi ht
    have hb : begun.env = s.env.tail := by
      rcases hbegun with ⟨shape, flags, rfl⟩ | ⟨shape, flags, x, y, w, k, rfl⟩ <;> rfl
    rcases hend with rfl | ⟨act, -, hrun⟩
    · exact hb
    · rcases runAction_next hrun with ⟨-, rfl⟩ | ⟨-, ops, m, -, rfl⟩ <;> exact hb
  | ack =>
    cases hq : s.ackQ with
    | nil => rw [ackTransfer_nil (s := s.tick) hq]; rfl
    | cons b rest => rw [ackTransfer_cons (s := s.tick) hq]; rfl

/-- In a fair environment the ready state is reached within as many steps as there are left. -/
theorem run_reaches_rest (h : s.Inv) {n : Nat} (hrank : s.rank ≤ n) (henv : n ≤ s.env.length)
    (hf : ∀ e ∈ s.env, e.fair = true) : ∃ k t, k ≤ n ∧ Host.Core.run core k s = .next t ∧ t.AtRest := by
  induction n generalizing s with
  | zero =>
    have hrest : s.AtRest := by
      by_contra hn
      exact (State.rank_pos hn).not_ge hrank
    exact ⟨0, s, le_rfl, rfl, hrest⟩
  | succ n ih =>
    by_cases hrest : s.AtRest
    · exact ⟨0, s, Nat.zero_le _, rfl, hrest⟩
    · obtain ⟨e, rest, hcons⟩ := List.exists_cons_of_length_pos (Nat.succ_pos n |>.trans_le henv)
      have hedge : s.edge = e := by simp [State.edge, hcons]
      obtain ⟨t, hstep, hlt⟩ := h.progress (hedge ▸ hf e (by simp [hcons])) hrest
      have hdid := step_next hstep
      have htail : t.env = rest := by rw [hdid.env h, hcons, List.tail_cons]
      have hlen : n ≤ rest.length := by simpa [hcons] using henv
      obtain ⟨k, u, hk, hrun, hu⟩ := ih (hdid.inv h) (by omega) (htail ▸ hlen) fun e he =>
        hf e (hcons ▸ List.mem_cons_of_mem _ (htail ▸ he))
      exact ⟨k + 1, u, Nat.succ_le_succ hk, (run_succ hstep).trans hrun, hu⟩

end

/-- Settles O60: the number of steps is the rank of the state, which no input is part of. -/
theorem returnsToReadyState : Obligations.ReturnsToReadyState := by
  unfold Obligations.ReturnsToReadyState
  intro s h
  refine ⟨s.rank, fun env hlen hf => ?_⟩
  exact run_reaches_rest (s := { s with env := env }) { h with } le_rfl hlen.ge hf

end Sys2Proof.Machine

/-! What a step sends (spec/10_state.md R42, R43, 70_reset_and_hazards.md R272): the records of the panel port and of the
acknowledgement port taken out of the state as one, what each operation of a step does to them, and the host bytes a step
takes. A reset leaves the records and the host's bytes, which are none of the block's state. -/

namespace Sys2Proof.Machine

/-! ### Reset (R260, R261) -/

/-- Settles O52: the step is `applyReset` of the state after its inputs, whatever else is due. -/
theorem resetWins : Obligations.ResetWins := by
  unfold Obligations.ResetWins
  intro s hr
  exact ⟨applyReset s.tick, step_of_rst hr, rfl⟩

/-! ### The records of what was sent -/

/-- The model's records of the two ports that send (log 8). -/
structure SentRecords where
  /-- the panel operations performed (R43) -/
  panel : List PortOp
  /-- the acknowledgement bytes taken by the host (R42) -/
  ack : List Byte

/-- What the block has sent so far. -/
def State.sent (s : State) : SentRecords := { panel := s.panelOut, ack := s.ackOut }

/-- Between `s` and `t` at most one panel operation was performed, and no acknowledgement byte was taken. -/
def SendsPanel (s t : State) : Prop :=
  t.sent = s.sent ∨ ∃ op, t.sent = { s.sent with panel := op :: s.panelOut }

/-- Between `s` and `t` at most one acknowledgement byte was taken, and no panel operation was performed. -/
def SendsAck (s t : State) : Prop :=
  t.sent = s.sent ∨ ∃ b, t.sent = { s.sent with ack := b :: s.ackOut }

section
variable {s t : State}

theorem SendsPanel.panelOut (h : SendsPanel s t) : t.panelOut = s.panelOut ∨ ∃ op, t.panelOut = op :: s.panelOut :=
  h.imp (congrArg SentRecords.panel) fun ⟨op, e⟩ => ⟨op, congrArg SentRecords.panel e⟩

theorem SendsPanel.ackOut (h : SendsPanel s t) : t.ackOut = s.ackOut :=
  h.elim (congrArg SentRecords.ack) fun ⟨_, e⟩ => congrArg SentRecords.ack e

theorem SendsAck.ackOut (h : SendsAck s t) : t.ackOut = s.ackOut ∨ ∃ b, t.ackOut = b :: s.ackOut :=
  h.imp (congrArg SentRecords.ack) fun ⟨b, e⟩ => ⟨b, congrArg SentRecords.ack e⟩

theorem SendsAck.panelOut (h : SendsAck s t) : t.panelOut = s.panelOut :=
  h.elim (congrArg SentRecords.panel) fun ⟨_, e⟩ => congrArg SentRecords.panel e

/-! ### What each operation sends -/

theorem sendData_sends (s : State) : SendsPanel s (sendData s) := by
  cases hd : s.dq with
  | nil => rw [sendData_nil hd]; exact .inl rfl
  | cons d ds => rw [sendData_cons hd]; exact .inr ⟨.data d, rfl⟩

theorem sendCommand_sends (o : Opcode) (data : List Byte) (s : State) : SendsPanel s (sendCommand o data s) :=
  .inr ⟨.cmd (s.cfg.opcodes.byte o), rfl⟩

/-- A trigger in the split form sends nothing itself; in the one-byte form it sends its byte (R90). -/
theorem trigger_sends (k : TrigKind) (s : State) : SendsPanel s (trigger k s) := by
  cases hf : s.cfg.trigForm with
  | split => rw [trigger_split hf]; exact .inl rfl
  | single f p => rw [trigger_single hf]; exact .inr ⟨.cmd (trigSingle f p k), rfl⟩

theorem endWait_sends (b : WaitBound) (idle : Bool) (s : State) : SendsPanel s (endWait b idle s) := by
  cases idle
  · rw [endWait_timeout]; exact .inr ⟨.wait b, rfl⟩
  · rw [endWait_idle]; exact .inr ⟨.wait b, rfl⟩

/-- The instruction of a queue item performs at most one panel operation: its data bytes are later transfers (R88). -/
theorem exec_instr_sends {op : PanelOp} {idle : Bool} (h : exec (op.instr idle) s = .next t) : SendsPanel s t := by
  cases op with
  | trig k => cases k <;> cases h <;> exact trigger_sends _ s
  | wait b => cases h; exact endWait_sends b idle s
  | rst => cases h; exact .inr ⟨.rst, rfl⟩
  | swreset | border | tempsrc | update | activate => cases h; exact sendCommand_sends _ _ s
  | plane c p => cases c <;> cases p <;> cases h <;> exact sendCommand_sends _ _ s
  | entry c | colwin c | rowwin c | colcur c | rowcur c => cases c <;> cases h <;> exact sendCommand_sends _ _ s

theorem ackTransfer_sends (s : State) : SendsAck s (ackTransfer s) := by
  cases hq : s.ackQ with
  | nil => rw [ackTransfer_nil hq]; exact .inl rfl
  | cons b rest => rw [ackTransfer_cons hq]; exact .inr ⟨b, rfl⟩

/-- A byte rule sends nothing: a refusal's acknowledgement waits in `ack_q` (R122). -/
theorem receiveByte_sent {b : Byte} (h : receiveByte b s = .ok t) : t.sent = s.sent := by
  unfold receiveByte at h
  cases hx : s.rxState <;> simp only [hx] at h
  case seekMagic => rcases seekByte_ok h with ⟨-, rfl⟩ | ⟨-, rfl⟩ | ⟨-, rfl⟩ | ⟨-, -, rfl⟩ | ⟨-, -, rfl⟩ <;> rfl
  case readLength =>
    split_ifs at h <;> cases h
    · rcases lenLastByte_cases b s with ⟨-, e⟩ | ⟨-, e⟩ <;> rw [e] <;> rfl
    · rfl
  case readPayload => obtain ⟨-, ⟨-, rfl⟩ | ⟨-, rfl⟩⟩ := payByte_ok h <;> rfl
  case readCrc =>
    split_ifs at h <;> cases h
    · rcases crcLastByte_cases b s with ⟨-, e⟩ | ⟨-, e⟩ <;> rw [e] <;> rfl
    · rfl

/-- The end of bring-up queues the cold-start clear, and performs none of it (R173). -/
theorem bringupEnd_sent (h : bringupEnd s = .ok t) : t.sent = s.sent := by
  cases hb : s.buStage <;> simp only [bringupEnd, hb, Bool.false_eq_true, if_false, if_true] at h
  · split_ifs at h
    · split at h <;> cases h
      rfl
    · cases h; rfl
  · cases h; rfl

/-- The start of a dispatch queues the operations of its action, and performs none of them (R213). -/
theorem exec_decodeFrame_sent {i : Instr} (hi : decodeFrame s = .ok i) (h : exec i s = .next t) : t.sent = s.sent := by
  obtain ⟨begun, hbegun, hend⟩ := exec_decodeFrame_begun hi h
  have hb : begun.sent = s.sent := by
    rcases hbegun with ⟨shape, flags, rfl⟩ | ⟨shape, flags, x, y, w, k, rfl⟩ <;> rfl
  rcases hend with rfl | ⟨act, -, hrun⟩
  · exact hb
  · rcases runAction_next hrun with ⟨-, rfl⟩ | ⟨-, ops, m, -, rfl⟩ <;> exact hb

/-! ### What a step sends -/

/-- A step sends on one of the two ports at most: the panel port works in BRINGUP and DISPATCH, the acknowledgement port in
ACK. -/
theorem Did.sends (hd : Did s t) : SendsPanel s t ∨ SendsAck s t := by
  cases hd with
  | reset | idle | field | seek | done => exact .inl (.inl rfl)
  | data => exact .inl (sendData_sends s.tick)
  | panel _ _ _ _ _ h =>
    have e := exec_instr_sends h
    exact .inl e
  | ack => exact .inr (ackTransfer_sends s.tick)
  | byte _ _ _ _ h =>
    have e := receiveByte_sent h
    exact .inl (.inl e)
  | bringup _ _ _ _ h =>
    have e := bringupEnd_sent h
    exact .inl (.inl e)
  | frame _ _ _ hi h =>
    have e := exec_decodeFrame_sent hi h
    exact .inl (.inl e)

/-! ### What a step takes -/

/-- A step leaves the host's bytes or takes the first of them. -/
theorem step_hostQ (h : step s = .next t) : t.hostQ = s.hostQ ∨ ∃ b, s.hostQ = b :: t.hostQ := by
  rcases (step_next h).hostQ with e | ⟨hp, hr, hv⟩
  · exact .inl e
  · cases hq : s.hostQ with
    | nil =>
      have hdue := due_no_byte hr hp (.inr hq)
      split_ifs at hdue <;> cases (step_of_quiet hdue).symm.trans h <;> exact .inl hq
    | cons b rest =>
      have hbyte := outcome_eq_next.1 ((step_byte hr hp hv hq).symm.trans h)
      obtain ⟨-, hrest⟩ := receiveByte_env_hostQ hbyte
      exact .inr ⟨b, by rw [hrest]⟩

end

/-- Settles O49: a step sends on the panel port or on the acknowledgement port, once at most, and takes one host byte at
most. -/
theorem oneTransferPerStep : Obligations.OneTransferPerStep := by
  unfold Obligations.OneTransferPerStep
  intro s t h
  rcases (step_next h).sends with hpanel | hack
  · exact ⟨hpanel.panelOut, .inl hpanel.ackOut, step_hostQ h⟩
  · exact ⟨.inl hack.panelOut, hack.ackOut, step_hostQ h⟩

end Sys2Proof.Machine
